-- ==== Sys2Proof/Word.lean ====
section
/-! DEFINITION. The widths the spec fixes (00_scope R8, R10, R11): a window word is 32 bits, a
calibration field 16, a bus byte 8, a device address 7. -/

namespace Sys2Proof

/-- A 32-bit word of the host window, and a command word (20_memory R81, 30_encoding R111). -/
abbrev Word := BitVec 32

/-- A 16-bit calibration pattern (10_state R53). -/
abbrev Half := BitVec 16

/-- A byte on the bus or in a buffer. -/
abbrev Byte := BitVec 8

/-- A 7-bit I2C device address (20_memory R85 (b)). -/
abbrev Addr7 := BitVec 7

/-- A 20-bit raw sample (10_state R55). -/
abbrev Raw := BitVec 20

end Sys2Proof
end

