-- ==== Sys2Proof/Machine/Arith.lean ====
section
/-! DEFINITION. The integer notation of 00_scope R11 and the arithmetic laws of 42_compensation
R232–R234: every operation is computed exactly on integers and then narrowed. -/

namespace Sys2Proof.Machine

/-- `wrap_N(x)` (R11): the `y` in [−2^(N−1), 2^(N−1)) with y ≡ x (mod 2^N). -/
def wrap (n : Nat) (x : Int) : Int := x.bmod (2 ^ n)

/-- `a +N b` (R11). -/
def addW (n : Nat) (a b : Int) : Int := wrap n (a + b)

/-- `a −N b` (R11). -/
def subW (n : Nat) (a b : Int) : Int := wrap n (a - b)

/-- `a ×N b` (R11). -/
def mulW (n : Nat) (a b : Int) : Int := wrap n (a * b)

/-- `shl_N(a, k)` (R11): `wrap_N(a × 2^k)`. -/
def shlW (n : Nat) (a : Int) (k : Nat) : Int := wrap n (a * 2 ^ k)

/-- `asr(a, k)` (R11): floor(a / 2^k). -/
def asr (a : Int) (k : Nat) : Int := a.fdiv (2 ^ k)

/-- The division law (R234): `tdiv`, truncated toward zero, then wrapped. -/
def divW (n : Nat) (a b : Int) : Int := wrap n (a.tdiv b)

/-- `lsr(a, k)` of an unsigned value (R11): floor(a / 2^k). -/
def lsr (a k : Nat) : Nat := a / 2 ^ k

end Sys2Proof.Machine
end

