-- ==== Sys2Proof/Config.lean ====
section
/-! DEFINITION. What the spec fixes for every core (00_scope R8), the implementation parameters it
leaves open (R8, 40_bus R143, 92 D7, D18, D19), and the free values (R13 `draw_N`). An opaque
constant here has no body: nothing can be proved about its value. -/

namespace Sys2Proof

/-- The bus address of the BMP280 (R8 `DEV_ADDR`). -/
def Config.devAddr : Addr7 := 0x77

/-- The identity byte the sensor must answer (R8 `CHIP_ID`). -/
def Config.chipId : Byte := 0x58

/-- The byte `CONFIGURE` writes to the measurement-control register (R8 `CTRL_MEAS_VAL`). -/
def Config.ctrlMeasVal : Byte := 0x27

/-- The byte `CONFIGURE` writes to the configuration register (R8 `CONFIG_VAL`). -/
def Config.configVal : Byte := 0xA0

/-- Bytes of the calibration block (R8 `CAL_LEN`). -/
def Config.calLen : Nat := 24

/-- Bytes of the measurement data block (R8 `RAW_LEN`). -/
def Config.rawLen : Nat := 6

/-- Bytes of each transfer buffer (R8 `BUF_LEN`). -/
def Config.bufLen : Nat := 32

/-- The implementation parameters of R8. A budget is a natural ≥ 1, so each is held as the number of
observations AFTER the first one; `Params.bStart` and its fellows are the budgets themselves. -/
structure Params where
  startMore     : Nat
  stopMore      : Nat
  addrMore      : Nat
  btfMore       : Nat
  rxneMore      : Nat
  readyAttempts : BitVec 8
  regId         : Byte
  regCal        : Byte
  regCtrlMeas   : Byte
  regConfig     : Byte
  regData       : Byte
deriving DecidableEq, Repr

/-- `B_START` (R143). -/
def Params.bStart (p : Params) : Nat := p.startMore + 1

/-- `B_STOP` (R143). -/
def Params.bStop (p : Params) : Nat := p.stopMore + 1

/-- `B_ADDR` (R143). -/
def Params.bAddr (p : Params) : Nat := p.addrMore + 1

/-- `B_BTF` (R143). -/
def Params.bBtf (p : Params) : Nat := p.btfMore + 1

/-- `B_RXNE` (R143). -/
def Params.bRxne (p : Params) : Nat := p.rxneMore + 1

/-- OPEN (92 D7): `B_START` less one. -/
opaque Config.startMore : Nat

/-- OPEN (92 D7): `B_STOP` less one. -/
opaque Config.stopMore : Nat

/-- OPEN (92 D7): `B_ADDR` less one. -/
opaque Config.addrMore : Nat

/-- OPEN (92 D7): `B_BTF` less one. -/
opaque Config.btfMore : Nat

/-- OPEN (92 D7): `B_RXNE` less one. -/
opaque Config.rxneMore : Nat

/-- OPEN (92 D18): `READY_ATTEMPTS`. -/
opaque Config.readyAttempts : BitVec 8

/-- The parameters of the core as it comes out of reset: the OPEN ones unknown, the `REG_*` ones at
the spec's defaults (R8, 92 D19). Assumption log 4. -/
def Config.params : Params :=
  { startMore := Config.startMore, stopMore := Config.stopMore, addrMore := Config.addrMore,
    btfMore := Config.btfMore, rxneMore := Config.rxneMore, readyAttempts := Config.readyAttempts,
    regId := 0xD0, regCal := 0x88, regCtrlMeas := 0xF4, regConfig := 0xF5, regData := 0xF7 }

/-- `draw_N()` (R13): the `n`-th free value, of `w` bits. Assumption log 3. -/
opaque Config.draw (w n : Nat) : BitVec w

/-- What host variable `x` holds before anything has been read into it, which the spec does not say.
Assumption log 20. -/
opaque Config.hostVar (x : Nat) : Word

end Sys2Proof
end

