-- ==== Sys2Proof/Syntax.lean ====
section
/-! DEFINITION. The twelve commands of 30_encoding R114, one constructor per row of
spec/opcode_table.json. -/

namespace Sys2Proof

/-- A command of the core. `a` is the 7-bit device address, `n` (or `m` for `PROBE`) the 8-bit count
(R112, R113). -/
inductive Instr where
  | start                            -- 0x01 START
  | stop                             -- 0x02 STOP
  | write (a : Addr7) (n : BitVec 8) -- 0x03 WRITE a, n
  | read  (a : Addr7) (n : BitVec 8) -- 0x04 READ a, n
  | probe (a : Addr7) (m : BitVec 8) -- 0x05 PROBE a, m
  | readCal                          -- 0x10 READ_CAL
  | configure                        -- 0x11 CONFIGURE
  | readRaw                          -- 0x12 READ_RAW
  | init                             -- 0x13 INIT
  | compT                            -- 0x20 COMP_T
  | compP                            -- 0x21 COMP_P
  | acquire                          -- 0x22 ACQUIRE
deriving DecidableEq, Repr

end Sys2Proof
end

