-- ==== Sys2Proof/WellFormed.lean ====
section
/-! DEFINITION. Which commands a command word can encode (30_encoding R115 check 4): the count of a
`WRITE` or a `READ` is at most `BUF_LEN`. Every address and every `PROBE` count is accepted. -/

namespace Sys2Proof

/-- R115: `N ≤ 32` for `WRITE` and `READ`; nothing else restricts an operand. -/
def Instr.wf : Instr → Bool
  | .write _ n => decide (n.toNat ≤ Config.bufLen)
  | .read _ n => decide (n.toNat ≤ Config.bufLen)
  | .start => true
  | .stop => true
  | .probe _ _ => true
  | .readCal => true
  | .configure => true
  | .readRaw => true
  | .init => true
  | .compT => true
  | .compP => true
  | .acquire => true

end Sys2Proof
end

