-- ==== Sys2Proof/Decode.lean ====
section
/-! DEFINITION. Reading and writing command words (30_encoding R111–R117). `decode` is total and
refuses by name in the order of R115; `encode` is R117's `enc`. -/

namespace Sys2Proof

/-- Why a word is no command (R115, R116). All five raise `F_ILLEGAL`; the last names a byte string
shorter than one word, which no write of `CMD` can hold. -/
inductive DecodeError where
  | unknownOpcode     -- check 1
  | reservedNonzero   -- check 2
  | operandNonzero    -- check 3
  | countTooLarge     -- check 4
  | truncated
deriving DecidableEq, Repr

/-- What a row of R114 takes from the word: nothing, or an address and a count, the count at most
`BUF_LEN` (`sized`) or any byte (`counted`). -/
inductive OpcodeRow where
  | plain (i : Instr)
  | sized (f : Bool)   -- `false` is WRITE, `true` is READ
  | counted            -- PROBE
deriving DecidableEq, Repr

/-- `OPC`, bits 7:0 (R112). -/
def fieldOpc (w : Word) : Byte := w.extractLsb' 0 8

/-- `ADDR`, bits 14:8 (R112). -/
def fieldAddr (w : Word) : Addr7 := w.extractLsb' 8 7

/-- `RSV0`, bit 15 (R112). -/
def fieldRsv0 (w : Word) : BitVec 1 := w.extractLsb' 15 1

/-- `N`, bits 23:16 (R112). -/
def fieldN (w : Word) : BitVec 8 := w.extractLsb' 16 8

/-- `RSV1`, bits 31:24 (R112). -/
def fieldRsv1 (w : Word) : BitVec 8 := w.extractLsb' 24 8

/-- The opcode map of R114; an opcode outside it is illegal (R116). -/
def opcodeRow (opc : Byte) : Option OpcodeRow :=
  if opc = 0x01 then some (.plain .start)
  else if opc = 0x02 then some (.plain .stop)
  else if opc = 0x03 then some (.sized false)
  else if opc = 0x04 then some (.sized true)
  else if opc = 0x05 then some .counted
  else if opc = 0x10 then some (.plain .readCal)
  else if opc = 0x11 then some (.plain .configure)
  else if opc = 0x12 then some (.plain .readRaw)
  else if opc = 0x13 then some (.plain .init)
  else if opc = 0x20 then some (.plain .compT)
  else if opc = 0x21 then some (.plain .compP)
  else if opc = 0x22 then some (.plain .acquire)
  else none

/-- Operands of a row (R113), with checks 3 and 4 of R115. -/
def rowInstr (r : OpcodeRow) (a : Addr7) (n : BitVec 8) : Except DecodeError Instr :=
  match r with
  | .plain i => if a = 0 ∧ n = 0 then .ok i else .error .operandNonzero
  | .sized false => if n.toNat ≤ Config.bufLen then .ok (.write a n) else .error .countTooLarge
  | .sized true => if n.toNat ≤ Config.bufLen then .ok (.read a n) else .error .countTooLarge
  | .counted => .ok (.probe a n)

/-- The command a word encodes, or which check of R115 it fails first. -/
def decode (w : Word) : Except DecodeError Instr :=
  match opcodeRow (fieldOpc w) with
  | none => .error .unknownOpcode
  | some r =>
    if fieldRsv0 w = 0 ∧ fieldRsv1 w = 0 then rowInstr r (fieldAddr w) (fieldN w)
    else .error .reservedNonzero

/-- The four bytes of a word, the byte with bits 7:0 first (20_memory R93). -/
def wordBytes (w : Word) : List Byte :=
  [w.extractLsb' 0 8, w.extractLsb' 8 8, w.extractLsb' 16 8, w.extractLsb' 24 8]

/-- The word of four bytes, the first byte bits 7:0. -/
def bytesWord (b0 b1 b2 b3 : Byte) : Word := b3 ++ b2 ++ b1 ++ b0

/-- One command read off the front of a string of bytes (R111: exactly one word per command), with
the bytes that follow it. -/
def decodeBytes (bs : List Byte) : Except DecodeError (Instr × List Byte) :=
  match bs with
  | b0 :: b1 :: b2 :: b3 :: rest =>
    match decode (bytesWord b0 b1 b2 b3) with
    | .ok i => .ok (i, rest)
    | .error e => .error e
  | _ => .error .truncated

/-- `OPC` of a command (R114). -/
def Instr.opcode : Instr → Byte
  | .start => 0x01
  | .stop => 0x02
  | .write _ _ => 0x03
  | .read _ _ => 0x04
  | .probe _ _ => 0x05
  | .readCal => 0x10
  | .configure => 0x11
  | .readRaw => 0x12
  | .init => 0x13
  | .compT => 0x20
  | .compP => 0x21
  | .acquire => 0x22

/-- The `ADDR` field of a command: its address operand, 0 for a command without operands (R112). -/
def Instr.addr : Instr → Addr7
  | .write a _ => a
  | .read a _ => a
  | .probe a _ => a
  | .start => 0
  | .stop => 0
  | .readCal => 0
  | .configure => 0
  | .readRaw => 0
  | .init => 0
  | .compT => 0
  | .compP => 0
  | .acquire => 0

/-- The `N` field of a command: its count operand, 0 for a command without operands (R112). -/
def Instr.count : Instr → BitVec 8
  | .write _ n => n
  | .read _ n => n
  | .probe _ m => m
  | .start => 0
  | .stop => 0
  | .readCal => 0
  | .configure => 0
  | .readRaw => 0
  | .init => 0
  | .compT => 0
  | .compP => 0
  | .acquire => 0

/-- R117: `enc(OPC, a, n) = n × 2^16 + a × 2^8 + OPC`. -/
def enc (opc : Byte) (a : Addr7) (n : BitVec 8) : Word :=
  BitVec.ofNat 32 (n.toNat * 65536 + a.toNat * 256 + opc.toNat)

/-- The word of a command. -/
def encode (i : Instr) : Word := enc i.opcode i.addr i.count

/-- The command read from the bits of an opcode-table row: `w`'s low `nbits` bits, zeros above them,
laid out as the four bytes of a window word and given to the decoder. -/
def decodeTableWord (nbits w : Nat) : Option Instr :=
  match decodeBytes (wordBytes (BitVec.ofNat 32 (w % 2 ^ nbits))) with
  | .ok (i, _) => some i
  | .error _ => none

end Sys2Proof
end

