-- ==== Sys2Proof/Machine/State.lean ====
section
/-! DEFINITION. The state of the machine as plain data: the core's own state (10_state, all of it), the
implementation parameters, and what the model adds so that one deterministic step can show every
interleaving of the three agents (assumption log 1, 2, 3, 4, 10, 16). -/

namespace Sys2Proof.Machine

/-- The model stops with a fault nowhere: every fault of the spec (60_exceptions R262) is state that
the core TAKES and keeps (R263, R265), a next state. So there is no constructor (log 8). -/
inductive Fault where
deriving DecidableEq, Repr

/-- Why a command has no meaning in the model. -/
inductive Refusal where
  /-- Raised by an arm of `exec` for a command not modelled yet (none at present); safe: nothing
  can be proved of what such a command does. -/
  | notModelled (mnemonic : String)
deriving DecidableEq, Repr

/-! ## The core -/

/-- A transaction outcome (R261); the numbers of `STATUS.OUTCOME` are its view's. -/
inductive TxOutcome where
  | success
  | addressNack
  | timeout
deriving DecidableEq, Repr

/-- The fault codes of R262 that can be raised. -/
inductive FaultCode where
  | illegal     -- 0x01 F_ILLEGAL
  | busy        -- 0x02 F_BUSY
  | unset       -- 0x03 F_UNSET
  | tfineStale  -- 0x04 F_TFINE_STALE
  | badAccess   -- 0x05 F_BAD_ACCESS
deriving DecidableEq, Repr

/-- The contents of the `FAULT` register once a fault has been raised (R34, R263). -/
structure FaultRecord where
  code : FaultCode
  info : Byte
deriving DecidableEq, Repr

/-- `CR`, the peripheral control register (R41): its fields; reserved bits read 0. -/
structure CR where
  pe    : Bool
  start : Bool
  stop  : Bool
  ack   : Bool
deriving DecidableEq, Repr

/-- `SR1`, peripheral status 1 (R42): its fields; reserved bits read 0. -/
structure SR1 where
  sb   : Bool
  addr : Bool
  btf  : Bool
  rxne : Bool
  txe  : Bool
  af   : Bool
deriving DecidableEq, Repr

/-- `SR2`, peripheral status 2 (R43): its fields; reserved bits read 0. -/
structure SR2 where
  msl  : Bool
  busy : Bool
  tra  : Bool
deriving DecidableEq, Repr

/-- `ENG_PHASE`, the hidden state of the byte engine (R51). -/
inductive Phase where
  | idle
  | awaitAddr
  | addrSent
  | txReady
  | txByte
  | rxHold
  | rxActive
  | rxEnded
  | nacked
deriving DecidableEq, Repr

/-- The bus peripheral (R41–R43, R50) with its byte engine's hidden state (R51, R52). -/
structure Periph where
  cr        : CR
  sr1       : SR1
  sr2       : SR2
  dr        : Byte
  phase     : Phase
  engRw     : Bool
  engTarget : Addr7
deriving DecidableEq, Repr

/-- One observation (R49): a copy of `SR1` and `CR` taken in one step. -/
structure Obs where
  sr1 : SR1
  cr  : CR
deriving DecidableEq, Repr

/-- The twelve calibration registers as 16-bit patterns (R53). -/
structure CalSet where
  t1 : Half
  t2 : Half
  t3 : Half
  p1 : Half
  p2 : Half
  p3 : Half
  p4 : Half
  p5 : Half
  p6 : Half
  p7 : Half
  p8 : Half
  p9 : Half
deriving DecidableEq, Repr

/-- `RAW_T` and `RAW_P`, written together (R55). -/
structure RawSample where
  t : Raw
  p : Raw
deriving DecidableEq, Repr

/-- The data registers (R53–R57, R60). `none` is the spec's own mark `UNSET` (R54); the calibration
registers are unset all together, and so are the two raw registers. -/
structure Readings where
  cal        : Option CalSet
  raw        : Option RawSample
  tfine      : Option Word
  tfineFresh : Bool
  temp       : Option Word
  pres       : Option Word
  lastId     : Option Byte
deriving DecidableEq, Repr

/-- Who called the transport sub-sequence in progress, and so where its result goes (R14, R37): the
command itself, or a line of a sensor command. `c1Ptr`, `m1Ptr`, `i3Ptr` are the pointer write of
`regread` at C1, M1, I3 (R201), `c1Burst`, `m1Burst`, `i3Burst` its read. -/
inductive Ret where
  | top
  | c1Ptr
  | c1Burst
  | g1
  | g2
  | m1Ptr
  | m1Burst
  | i1
  | i3Ptr
  | i3Burst
deriving DecidableEq, Repr

/-- The polls of 40_bus, each the place the sequencer waits at (R37's program points) with the locals
(R38) that live there: `i` the byte index, `k` the attempt number, `o` or `acked` the result the
sub-sequence returns once its `stop()` is done. -/
inductive Point where
  | s2                                         -- START command: start()'s poll (R150)
  | p2                                         -- STOP command: stop()'s poll (R151)
  | w1 (a : Addr7) (n : Nat)                   -- write: start()'s poll at W1 (R152)
  | w4 (a : Addr7) (n : Nat)                   -- write: address poll
  | w10 (a : Addr7) (n i : Nat)                -- write: byte poll
  | wStop (o : TxOutcome)                      -- write: stop()'s poll, W2, W5, W6, W11 or W12
  | rd2 (a : Addr7) (n : Nat)                  -- read: start()'s poll at RD2 (R153)
  | rd5 (a : Addr7) (n : Nat)                  -- read: address poll
  | rd11 (a : Addr7) (n i : Nat)               -- read: byte poll
  | rdStop (o : TxOutcome)                     -- read: stop()'s poll, RD3, RD6, RD7 or RD12
  | q2 (a : Addr7) (m k : Nat)                 -- probe: start()'s poll at Q2 (R154)
  | q5 (a : Addr7) (m k : Nat)                 -- probe: address poll
  | qStop (a : Addr7) (m k : Nat) (acked : Bool) -- probe: stop()'s poll, Q6, Q7 or Q8
deriving DecidableEq, Repr

/-- `SEQ` (R37), between two sequencer steps (R39). `entry c`: the command `c` has been latched and its
first step is next. `poll c r p j`: the next step is an observation of the poll at `p`, which has made
`j` (`pc_cnt`, R38). `polled c r p res`: the poll has ended, with the observation that satisfied it or
with `TIMEOUT` (`none`), and the next step is the run of non-poll actions after it (`obs`, R38). -/
inductive Seq where
  | idle
  | entry (cmd : Instr)
  | poll (cmd : Instr) (ret : Ret) (pt : Point) (pcCnt : Nat)
  | polled (cmd : Instr) (ret : Ret) (pt : Point) (res : Option Obs)
deriving DecidableEq, Repr

/-- The byte storage of the host window (R35, R36, R81): (window byte offset, byte) pairs, offsets
strictly rising. `TXBUF[j]` is at 0x80 + j, `RXBUF[j]` at 0xA0 + j. An unlisted byte is `UNSET`: it has
no value (R54). -/
abbrev Memory := List Host.Cell

/-! ## The other agents -/

/-- The bus agent's events (R146). -/
inductive BusEvent where
  | start
  | addrAck
  | addrNack
  | txAck
  | txNack
  | rx (b : Byte)
  | stop
deriving DecidableEq, Repr

/-- What happened on the two-wire bus, each byte with its acknowledge bit (20_memory R87). -/
inductive WireEvent where
  | start
  | addr (b : Byte) (ack : Bool)
  | tx (b : Byte) (ack : Bool)
  | rx (b : Byte) (ack : Bool)
  | stop
deriving DecidableEq, Repr

/-- The reference device of R148: `DEVREG` as (register, byte) pairs with an unlisted register 0,
`PTR`, `WCNT`. -/
structure RefDevice where
  regs : List Host.Cell
  ptr  : Byte
  wcnt : Nat
deriving DecidableEq, Repr

/-- Who the bus agent is: `scripted`, whose events come from the agenda and are therefore free (R145,
R147), or the reference device under the eager schedule (R148). -/
inductive BusAgent where
  | scripted
  | reference (d : RefDevice)
deriving DecidableEq, Repr

/-- One turn of one agent (20_memory R97): the sequencer, one event of the bus agent, the host's next
program line, or the power-on reset (70_reset R291). -/
inductive Turn where
  | seq
  | bus (e : BusEvent)
  | host
  | reset
deriving DecidableEq, Repr

/-- A value a host program writes: a number, or a host variable with one byte replaced (R120 `TXB`). -/
inductive HostVal where
  | lit (v : Word)
  | withByte (x : Nat) (lane : Nat) (b : Byte)
deriving DecidableEq, Repr

/-- A line of a host program (30_encoding R119). `write` and `read` give the width in bytes; `HW` and
`HR` are width 4. Labels are line numbers, host variables numbers. `issue` is R120's `ISSUE`. -/
inductive HostOp where
  | write (width : Nat) (off : Word) (v : HostVal)
  | read (x : Nat) (width : Nat) (off : Word)
  | wait
  | ifEq (x hi lo : Nat) (v : Word) (target : Nat)
  | ifNe (x hi lo : Nat) (v : Word) (target : Nat)
  | halt
  | issue (w : Word)
deriving DecidableEq, Repr

/-- The host: its program, the line it is at, and its variables (variable numbers strictly rising).
`waiting` says where in an `issue` line the host is: false at its write of `CMD`, true at its `WAIT`
(R120). -/
structure HostAgent where
  prog : List HostOp
  pc   : Nat
  waiting : Bool
  vars : List (Nat × Word)
deriving DecidableEq, Repr

/-- Counts the spec's bounds speak of (R156, R160, R316): observations, sequencer steps, `start()`
calls. Nothing in the machine reads them. -/
structure Tally where
  observations : Nat
  seqSteps     : Nat
  starts       : Nat
deriving DecidableEq, Repr

/-! ## The machine -/

/-- The whole machine. The first nine fields are the core (10_state), `params` its parameters
(00_scope R8), the rest the model's own. -/
structure State where
  cmd      : Word               -- CMD (R31)
  outcome  : TxOutcome          -- STATUS.OUTCOME (R58)
  ready    : Bool               -- STATUS.READY (R59)
  ctrlEn   : Bool               -- CTRL.EN (R33)
  fault    : Option FaultRecord -- FAULT and STATUS.FAULTED (R34, R263)
  mem      : Memory             -- TXBUF and RXBUF (R35, R36)
  seq      : Seq                -- SEQ and STATUS.BUSY (R37)
  bus      : Periph             -- CR, SR1, SR2, DR, ENG_* (R41–R52)
  data     : Readings           -- CAL, RAW_*, TFINE, TEMP, PRES, LAST_ID, TFINE_FRESH
  params   : Params             -- never changed by a step (log 4)
  draws    : Nat                -- how many free values have been drawn (log 3)
  tally    : Tally              -- counts, read by nothing (log 16)
  wire     : List WireEvent     -- what the bus carried, newest first (log 16)
  agenda   : List Turn          -- who moves next (log 1)
  host     : HostAgent          -- the host and its program (log 2)
  busAgent : BusAgent           -- log 10
deriving DecidableEq, Repr

/-- The bus peripheral at reset (R63). -/
def Periph.reset : Periph :=
  { cr := { pe := false, start := false, stop := false, ack := false },
    sr1 := { sb := false, addr := false, btf := false, rxne := false, txe := false, af := false },
    sr2 := { msl := false, busy := false, tra := false },
    dr := 0, phase := .idle, engRw := false, engTarget := 0 }

/-- The data registers at reset: all `UNSET`, `TFINE_FRESH` 0 (R63). -/
def Readings.reset : Readings :=
  { cal := none, raw := none, tfine := none, tfineFresh := false, temp := none, pres := none,
    lastId := none }

/-- The machine after reset (R63, R291, R292). The core's fields are the spec's values; the model's own
fields are log 1, 2, 3, 10, 16 and `params` log 4. -/
def State.reset : State :=
  { cmd := 0, outcome := .success, ready := false, ctrlEn := false, fault := none, mem := [],
    seq := .idle, bus := Periph.reset, data := Readings.reset, params := Config.params, draws := 0,
    tally := { observations := 0, seqSteps := 0, starts := 0 }, wire := [], agenda := [],
    host := { prog := [], pc := 0, waiting := false, vars := [] }, busAgent := .scripted }

end Sys2Proof.Machine
end

