-- ==== Sys2Proof/Machine/Ops.lean ====
section
/-! DEFINITION. The named operations over the state: one update per field, the byte storage of the
window, free values, raising a fault (60_exceptions R263) and the reset that leaves it (R274,
70_reset R291). -/

namespace Sys2Proof.Machine

/-! ## One update per field -/

def State.setCmd (s : State) (w : Word) : State := { s with cmd := w }
def State.setOutcome (s : State) (o : TxOutcome) : State := { s with outcome := o }
def State.setReady (s : State) (b : Bool) : State := { s with ready := b }
def State.setCtrlEn (s : State) (b : Bool) : State := { s with ctrlEn := b }
def State.setFault (s : State) (f : Option FaultRecord) : State := { s with fault := f }
def State.setMem (s : State) (m : Memory) : State := { s with mem := m }
def State.setSeq (s : State) (q : Seq) : State := { s with seq := q }
def State.setBus (s : State) (p : Periph) : State := { s with bus := p }
def State.setData (s : State) (d : Readings) : State := { s with data := d }
def State.setDraws (s : State) (n : Nat) : State := { s with draws := n }
def State.setTally (s : State) (t : Tally) : State := { s with tally := t }
def State.setWire (s : State) (l : List WireEvent) : State := { s with wire := l }
def State.setAgenda (s : State) (l : List Turn) : State := { s with agenda := l }
def State.setHost (s : State) (h : HostAgent) : State := { s with host := h }
def State.setBusAgent (s : State) (b : BusAgent) : State := { s with busAgent := b }

/-! ## Sparse data by key, keys strictly rising -/

/-- The entry at key `a`, if there is one. -/
def cellsGet {β : Type} : List (Nat × β) → Nat → Option β
  | [], _ => none
  | (k, v) :: r, a => if k = a then some v else cellsGet r a

/-- The list with `v` at key `a`, in key order. -/
def cellsPut {β : Type} : List (Nat × β) → Nat → β → List (Nat × β)
  | [], a, v => [(a, v)]
  | (k, x) :: r, a, v =>
    if a < k then (a, v) :: (k, x) :: r
    else if a = k then (a, v) :: r
    else (k, x) :: cellsPut r a v

/-- The list without key `a`. -/
def cellsErase {β : Type} : List (Nat × β) → Nat → List (Nat × β)
  | [], _ => []
  | (k, x) :: r, a => if k = a then r else (k, x) :: cellsErase r a

/-- Keys strictly rising. -/
abbrev cellsSorted {β : Type} (m : List (Nat × β)) : Prop := (m.map Prod.fst).Pairwise (· < ·)

/-! ## The byte storage of the host window (10_state R35, R36; 20_memory R81) -/

/-- The window byte offset of `TXBUF[0]` (R35). -/
def txBase : Nat := 0x80

/-- The window byte offset of `RXBUF[0]` (R36). -/
def rxBase : Nat := 0xA0

/-- The first window byte offset past the buffers (R81). -/
def bufEnd : Nat := 0xC0

/-- The canonical form: offsets strictly rising, every one a byte of `TXBUF` or `RXBUF`. Any byte may
be listed, since an unlisted byte is `UNSET`, which is no byte. -/
abbrev Memory.wf (m : Memory) : Prop :=
  cellsSorted m ∧ ∀ c ∈ m, txBase ≤ c.1 ∧ c.1 < bufEnd

/-- The byte at a window offset, `none` where it is `UNSET` (R54). This is what an unlisted offset
reads as. -/
def memGet (m : Memory) (a : Nat) : Option Byte := cellsGet m a

/-- Writing one byte. Only the buffers' offsets are storage (R81). -/
def memPut (m : Memory) (a : Nat) (b : Byte) : Memory :=
  if txBase ≤ a ∧ a < bufEnd then cellsPut m a b else m

/-- `TXBUF[j]` (R35). -/
def State.txByte (s : State) (j : Nat) : Option Byte := memGet s.mem (txBase + j)

/-- `RXBUF[j]` (R36). -/
def State.rxByte (s : State) (j : Nat) : Option Byte := memGet s.mem (rxBase + j)

/-- `TXBUF[j] <- b` (R35). -/
def State.putTx (s : State) (j : Nat) (b : Byte) : State := s.setMem (memPut s.mem (txBase + j) b)

/-- `RXBUF[j] <- b` (R36). -/
def State.putRx (s : State) (j : Nat) (b : Byte) : State := s.setMem (memPut s.mem (rxBase + j) b)

/-! ## Views of shared storage (log 17) -/

/-- `STATUS.BUSY`: 1 exactly when `SEQ` is not `IDLE` (R37). -/
def State.busy (s : State) : Bool := s.seq != .idle

/-- `STATUS.FAULTED`: 1 once a fault has been raised (R263). -/
def State.faulted (s : State) : Bool := s.fault.isSome

/-! ## Free values (00_scope R13) -/

/-- `draw_w()`: the next free value. -/
def State.drawn (s : State) (w : Nat) : BitVec w := Config.draw w s.draws

/-- The state after one draw. -/
def State.afterDraw (s : State) : State := s.setDraws (s.draws + 1)

/-! ## Faults and reset -/

/-- `raise Fault(code, info)` (60_exceptions R263): records the fault; `BUSY` and `SEQ` keep their values,
and what the raising step did before stays done. The caller performs nothing after it. -/
def raiseFault (code : FaultCode) (info : Byte) (s : State) : State :=
  s.setFault (some { code := code, info := info })

/-- Goes on only if no fault has been raised: the actions of a step after a `raise` are not performed
(R263). -/
def unlessFaulted (f : State → State) (s : State) : State := if s.faulted then s else f s

/-- Power-on reset (70_reset R291), the only way out of the faulted state (R265, R274): every piece of
the core's state takes its reset value. The parameters are the core's, and the host, its agenda, the
bus with its devices, the draws and the counts are outside it (log 15). -/
def powerReset (s : State) : State :=
  { State.reset with
    params := s.params, draws := s.draws, tally := s.tally, wire := s.wire, agenda := s.agenda,
    host := s.host, busAgent := s.busAgent }

/-! ## The end of a command -/

/-- The outermost `return` (10_state R40): `SEQ <- IDLE`, and with it `BUSY <- 0`. -/
def endCmd (s : State) : State := s.setSeq .idle

/-! ## Counts (log 16) -/

def State.countObservation (s : State) : State :=
  s.setTally { s.tally with observations := s.tally.observations + 1 }

def State.countSeqStep (s : State) : State :=
  s.setTally { s.tally with seqSteps := s.tally.seqSteps + 1 }

def State.countStart (s : State) : State :=
  s.setTally { s.tally with starts := s.tally.starts + 1 }

end Sys2Proof.Machine
end

