-- ==== Sys2Proof/Machine/Flags.lean ====
section
/-! DEFINITION. The flags: the sequencer's peripheral primitives (10_state R44–R49), the poll conditions
(40_bus R142), and the register words the flags are read as (R31–R34, R41–R43). -/

namespace Sys2Proof.Machine

/-! ## The sequencer's primitives (R44–R49) -/

/-- `SetCR(START, v)` (R48). -/
def Periph.setStart (p : Periph) (v : Bool) : Periph := { p with cr := { p.cr with start := v } }

/-- `SetCR(STOP, v)` (R48). -/
def Periph.setStop (p : Periph) (v : Bool) : Periph := { p with cr := { p.cr with stop := v } }

/-- `SetCR(ACK, v)` (R48). -/
def Periph.setAck (p : Periph) (v : Bool) : Periph := { p with cr := { p.cr with ack := v } }

/-- `WriteDR(b)` (R44): the byte goes to `DR`, and on from there only in the two phases that take one. -/
def Periph.writeDR (p : Periph) (b : Byte) : Periph :=
  if p.phase = .awaitAddr ∧ p.sr1.sb = true then
    { p with dr := b, sr1 := { p.sr1 with sb := false }, engRw := b.getLsbD 0,
             engTarget := b.extractLsb' 1 7, phase := .addrSent }
  else if p.phase = .txReady ∧ p.sr1.addr = false then
    { p with dr := b, sr1 := { p.sr1 with btf := false, txe := false }, phase := .txByte }
  else { p with dr := b }

/-- `ReadDR()` (R45): what is left after it; the byte it returns is `p.dr`. -/
def Periph.readDR (p : Periph) : Periph := { p with sr1 := { p.sr1 with rxne := false } }

/-- `ClearStatus()` (R46). -/
def Periph.clearStatus (p : Periph) : Periph :=
  { p with sr1 := { p.sr1 with addr := false },
           phase := if p.phase = .rxHold then .rxActive else p.phase }

/-- `ClearAF()` (R47). -/
def Periph.clearAF (p : Periph) : Periph := { p with sr1 := { p.sr1 with af := false } }

/-- `Observe()` (R49): a snapshot, with no side effect. -/
def Periph.observe (p : Periph) : Obs := { sr1 := p.sr1, cr := p.cr }

/-- The engine reset of a host write that takes `CR.PE` from 1 to 0, and otherwise the copy of
`CTRL.EN` into `CR.PE` (R33, 40_bus R146). -/
def Periph.setPE (p : Periph) (v : Bool) : Periph :=
  if p.cr.pe = true ∧ v = false then
    { p with cr := { pe := false, start := false, stop := false, ack := false },
             sr1 := Periph.reset.sr1, sr2 := Periph.reset.sr2, phase := .idle }
  else { p with cr := { p.cr with pe := v } }

/-! ## Poll conditions (40_bus R142) and budgets (R143) -/

/-- The condition the poll at a program point waits for (R142). -/
def Point.cond : Point → Obs → Bool
  | .s2, obs => obs.sr1.sb
  | .p2, obs => !obs.cr.stop
  | .w1 _ _, obs => obs.sr1.sb
  | .w4 _ _, obs => obs.sr1.addr || obs.sr1.af
  | .w10 _ _ _, obs => obs.sr1.btf
  | .wStop _, obs => !obs.cr.stop
  | .rd2 _ _, obs => obs.sr1.sb
  | .rd5 _ _, obs => obs.sr1.addr || obs.sr1.af
  | .rd11 _ _ _, obs => obs.sr1.rxne
  | .rdStop _, obs => !obs.cr.stop
  | .q2 _ _ _, obs => obs.sr1.sb
  | .q5 _ _ _, obs => obs.sr1.addr || obs.sr1.af
  | .qStop _ _ _ _, obs => !obs.cr.stop

/-- The budget of the poll at a program point (R143). -/
def Point.budget (p : Params) : Point → Nat
  | .s2 => p.bStart
  | .p2 => p.bStop
  | .w1 _ _ => p.bStart
  | .w4 _ _ => p.bAddr
  | .w10 _ _ _ => p.bBtf
  | .wStop _ => p.bStop
  | .rd2 _ _ => p.bStart
  | .rd5 _ _ => p.bAddr
  | .rd11 _ _ _ => p.bRxne
  | .rdStop _ => p.bStop
  | .q2 _ _ _ => p.bStart
  | .q5 _ _ _ => p.bAddr
  | .qStop _ _ _ _ => p.bStop

/-! ## Register words -/

/-- A flag at a bit of a word. -/
def bitAt (w k : Nat) (b : Bool) : BitVec w := if b then BitVec.ofNat w (2 ^ k) else 0

/-- The number of an outcome in `STATUS.OUTCOME` (R32, R261). -/
def TxOutcome.code : TxOutcome → BitVec 32
  | .success => 0
  | .addressNack => 1
  | .timeout => 2

/-- The number of a fault in `FAULT.CODE` (R262). -/
def FaultCode.number : FaultCode → Byte
  | .illegal => 0x01
  | .busy => 0x02
  | .unset => 0x03
  | .tfineStale => 0x04
  | .badAccess => 0x05

/-- `STATUS` (R32). -/
def State.statusWord (s : State) : Word :=
  bitAt 32 0 s.busy ||| (s.outcome.code <<< 1) ||| bitAt 32 3 s.ready |||
    bitAt 32 4 s.data.cal.isSome ||| bitAt 32 5 s.data.raw.isSome ||| bitAt 32 6 s.data.tfineFresh |||
    bitAt 32 7 s.faulted

/-- `CTRL` (R33). -/
def State.ctrlWord (s : State) : Word := bitAt 32 0 s.ctrlEn

/-- `FAULT` (R34): `INFO` in bits 15:8, `CODE` in bits 7:0, 0 while no fault has been raised. -/
def State.faultWord (s : State) : Word :=
  match s.fault with
  | none => 0
  | some f => (f.info ++ f.code.number).setWidth 32

/-- `CR` as a register (R41). -/
def CR.word (c : CR) : BitVec 16 :=
  bitAt 16 0 c.pe ||| bitAt 16 8 c.start ||| bitAt 16 9 c.stop ||| bitAt 16 10 c.ack

/-- `SR1` as a register (R42). -/
def SR1.word (r : SR1) : BitVec 16 :=
  bitAt 16 0 r.sb ||| bitAt 16 1 r.addr ||| bitAt 16 2 r.btf ||| bitAt 16 6 r.rxne |||
    bitAt 16 7 r.txe ||| bitAt 16 10 r.af

/-- `SR2` as a register (R43). -/
def SR2.word (r : SR2) : BitVec 16 := bitAt 16 0 r.msl ||| bitAt 16 1 r.busy ||| bitAt 16 2 r.tra

end Sys2Proof.Machine
end

