-- ==== Sys2Proof/Machine/Operands.lean ====
section
/-! DEFINITION. The operand forms: the address byte (20_memory R86), the transfer buffers as operands
(10_state R54, 40_bus R152 W0), received bytes decoded into registers (20_memory R91, R92), and the
values the compensation engine takes (42_compensation R231). -/

namespace Sys2Proof.Machine

/-- `addr_byte(a, rw)` (R86): the 7-bit address with the direction bit below it. -/
def addrByte (a : Addr7) (rw : Bool) : Byte := a ++ BitVec.ofBool rw

/-- The lowest `j < n` with `TXBUF[j]` unset, searching from `j` on for `n` bytes (W0, 60 R266). -/
def firstUnsetFrom (s : State) : Nat → Nat → Option Nat
  | _, 0 => none
  | j, k + 1 => if (s.txByte j).isNone then some j else firstUnsetFrom s (j + 1) k

/-- The lowest `j < n` with `TXBUF[j]` unset. -/
def firstUnsetTx (s : State) (n : Nat) : Option Nat := firstUnsetFrom s 0 n

/-- The `INFO` byte of an unset `TXBUF[j]` (R262). -/
def txInfo (j : Nat) : Byte := BitVec.ofNat 8 (0x40 + j)

/-- A received byte. After a successful read every byte of the burst has been written, so the free
value stands only where no run comes (log 6). -/
def State.rxVal (s : State) (j : Nat) : Byte := (s.rxByte j).getD (Config.draw 8 (s.draws + j))

/-- `raw16_k` of the calibration block (R91): little-endian. -/
def State.calField (s : State) (k : Nat) : Half := s.rxVal (2 * k + 1) ++ s.rxVal (2 * k)

/-- The twelve calibration registers decoded from `RXBUF[0..23]` (R53, R91). -/
def State.decodeCal (s : State) : CalSet :=
  { t1 := s.calField 0, t2 := s.calField 1, t3 := s.calField 2, p1 := s.calField 3,
    p2 := s.calField 4, p3 := s.calField 5, p4 := s.calField 6, p5 := s.calField 7,
    p6 := s.calField 8, p7 := s.calField 9, p8 := s.calField 10, p9 := s.calField 11 }

/-- A raw value from three bytes, most significant first, the low four bits dropped (R92). -/
def rawOf (d0 d1 d2 : Byte) : Raw :=
  BitVec.ofNat 20 (lsr (d0.toNat * 65536 + d1.toNat * 256 + d2.toNat) 4)

/-- The raw sample decoded from `RXBUF[0..5]`: pressure first, then temperature (R92). -/
def State.decodeRaw (s : State) : RawSample :=
  { p := rawOf (s.rxVal 0) (s.rxVal 1) (s.rxVal 2),
    t := rawOf (s.rxVal 3) (s.rxVal 4) (s.rxVal 5) }

/-- The value of an unsigned operand (R231): `T1`, `P1`, `RAW_T`, `RAW_P`. -/
def uval {w : Nat} (v : BitVec w) : Int := (v.toNat : Int)

/-- The value of a signed operand (R231): the other ten calibration registers, `TFINE`. -/
def sval {w : Nat} (v : BitVec w) : Int := v.toInt

end Sys2Proof.Machine
end

