-- ==== Sys2Proof/Machine/BusAgent.lean ====
section
/-! DEFINITION. The bus agent (40_bus R145–R148): its events, when each is enabled and what it does, and
the reference device under the eager schedule. -/

namespace Sys2Proof.Machine

/-! ## Events (R146) -/

/-- The phases in which a START condition can be generated (R146 `EV_START`). -/
def Phase.takesStart : Phase → Bool
  | .idle => true
  | .awaitAddr => true
  | .addrSent => false
  | .txReady => true
  | .txByte => false
  | .rxHold => false
  | .rxActive => false
  | .rxEnded => true
  | .nacked => true

/-- The phases in which a STOP condition can be generated (R146 `EV_STOP`). -/
def Phase.takesStop : Phase → Bool
  | .idle => true
  | .awaitAddr => true
  | .addrSent => false
  | .txReady => true
  | .txByte => false
  | .rxHold => true
  | .rxActive => false
  | .rxEnded => true
  | .nacked => true

/-- When an event is enabled (R146); every event requires `CR.PE = 1` (R145). -/
def BusEvent.enabled (p : Periph) (e : BusEvent) : Bool :=
  p.cr.pe &&
    match e with
    | .start => p.cr.start && !p.cr.stop && p.phase.takesStart
    | .addrAck => p.phase == .addrSent
    | .addrNack => p.phase == .addrSent
    | .txAck => p.phase == .txByte
    | .txNack => p.phase == .txByte
    | .rx _ => p.phase == .rxActive && !p.sr1.rxne
    | .stop => p.cr.stop && p.phase.takesStop

/-- What an enabled event does to the peripheral (R146). -/
def BusEvent.effect (p : Periph) (e : BusEvent) : Periph :=
  match e with
  | .start =>
    { p with sr1 := { p.sr1 with sb := true }, cr := { p.cr with start := false },
             sr2 := { p.sr2 with msl := true, busy := true }, phase := .awaitAddr }
  | .addrAck =>
    if p.engRw = false then
      { p with sr1 := { p.sr1 with addr := true, txe := true }, sr2 := { p.sr2 with tra := true },
               phase := .txReady }
    else
      { p with sr1 := { p.sr1 with addr := true }, sr2 := { p.sr2 with tra := false },
               phase := .rxHold }
  | .addrNack => { p with sr1 := { p.sr1 with af := true }, phase := .nacked }
  | .txAck => { p with sr1 := { p.sr1 with btf := true, txe := true }, phase := .txReady }
  | .txNack => { p with sr1 := { p.sr1 with af := true }, phase := .nacked }
  | .rx b =>
    { p with dr := b, sr1 := { p.sr1 with rxne := true },
             phase := if p.cr.ack then .rxActive else .rxEnded }
  | .stop =>
    { p with cr := { p.cr with stop := false }, sr1 := { p.sr1 with sb := false },
             sr2 := { msl := false, busy := false, tra := false }, phase := .idle }

/-- What an enabled event puts on the wire: the address byte again from `ENG_TARGET` and `ENG_RW`
(R52), a data byte from `DR`, a received byte with the acknowledge bit `CR.ACK` gives it (R146). -/
def BusEvent.wire (p : Periph) (e : BusEvent) : WireEvent :=
  match e with
  | .start => .start
  | .addrAck => .addr (addrByte p.engTarget p.engRw) true
  | .addrNack => .addr (addrByte p.engTarget p.engRw) false
  | .txAck => .tx p.dr true
  | .txNack => .tx p.dr false
  | .rx b => .rx b p.cr.ack
  | .stop => .stop

/-- The bus agent takes the event if it is enabled; otherwise nothing happens (R145). -/
def takeEvent (e : BusEvent) (s : State) : State :=
  if e.enabled s.bus then (s.setWire (e.wire s.bus :: s.wire)).setBus (e.effect s.bus) else s

/-! ## The reference device (R148) -/

/-- `DEVREG[r]`: an unlisted register is 0. -/
def RefDevice.reg (d : RefDevice) (r : Byte) : Byte := (cellsGet d.regs r.toNat).getD 0

/-- `DEVREG[r] <- b`. -/
def RefDevice.setReg (d : RefDevice) (r b : Byte) : RefDevice :=
  { d with regs := if b = 0 then cellsErase d.regs r.toNat else cellsPut d.regs r.toNat b }

/-- The device's registers are listed in rising order, none of them 0. -/
abbrev RefDevice.wf (d : RefDevice) : Prop := cellsSorted d.regs ∧ ∀ c ∈ d.regs, c.2 ≠ 0

/-- The event the reference device takes next under the eager schedule, if one is enabled (R148): it
acknowledges its own address only, acknowledges every data byte, and delivers `DEVREG[PTR]`. -/
def RefDevice.next (d : RefDevice) (p : Periph) : Option BusEvent :=
  if BusEvent.stop.enabled p then some .stop
  else if BusEvent.start.enabled p then some .start
  else if BusEvent.addrAck.enabled p then
    if p.engTarget = Config.devAddr then some .addrAck else some .addrNack
  else if BusEvent.txAck.enabled p then some .txAck
  else if (BusEvent.rx (d.reg d.ptr)).enabled p then some (.rx (d.reg d.ptr))
  else none

/-- What the event does to the device (R148): the first data byte of a write sets `PTR`, a later one
writes `REG_CTRL_MEAS` or `REG_CONFIG` and moves `PTR` on; a delivered byte moves `PTR` on; `WCNT` returns
to 0 at a START. `b` is the byte on the bus. -/
def RefDevice.after (q : Params) (d : RefDevice) (b : Byte) : BusEvent → RefDevice
  | .start => { d with wcnt := 0 }
  | .addrAck => d
  | .addrNack => d
  | .txAck =>
    if d.wcnt = 0 then { d with ptr := b, wcnt := 1 }
    else
      { (if d.ptr = q.regCtrlMeas ∨ d.ptr = q.regConfig then d.setReg d.ptr b else d) with
        ptr := d.ptr + 1, wcnt := d.wcnt + 1 }
  | .txNack => d
  | .rx _ => { d with ptr := d.ptr + 1 }
  | .stop => d

/-- The eager schedule (R148): enabled events one at a time until none is enabled, at most `k`. -/
def eager : Nat → RefDevice → State → State
  | 0, _, s => s
  | k + 1, d, s =>
    match d.next s.bus with
    | none => s
    | some e =>
      let d' := d.after s.params s.bus.dr e
      eager k d' ((takeEvent e s).setBusAgent (.reference d'))

/-- More events than a chain of enabled ones can have without a step of the sequencer: a byte's outcome,
a STOP, a START, and one to see that none is left. -/
def eagerFuel : Nat := 4

/-- The bus agent's part after a sequencer step: nothing of its own when it is scripted (its events are
turns of the agenda), the eager schedule when it is the reference device (R148). -/
def busWindow (s : State) : State :=
  match s.busAgent with
  | .scripted => s
  | .reference d => eager eagerFuel d s

/-- A bus turn of the agenda. A faulted core takes none (60_exceptions R265); the reference device takes
its events by the eager schedule only, so a scripted event is then none of its own (log 10). -/
def busTurn (e : BusEvent) (s : State) : State :=
  if s.faulted then s
  else
    match s.busAgent with
    | .scripted => takeEvent e s
    | .reference _ => s

end Sys2Proof.Machine
end

