-- ==== Sys2Proof/Machine/Transport.lean ====
section
/-! DEFINITION. How the sequencer enters the transport sub-sequences (40_bus R150–R154; 00_scope R14).
Each definition is a run of non-poll actions up to the next poll (10_state R39); what follows a poll is
in Sequencer.lean. -/

namespace Sys2Proof.Machine

/-- A peripheral primitive applied to the state. -/
def State.onBus (s : State) (f : Periph → Periph) : State := s.setBus (f s.bus)

/-- Stands at the first observation of the poll at `pt` (R141: `pc_cnt <- 0`). -/
def beginPoll (c : Instr) (r : Ret) (pt : Point) (s : State) : State := s.setSeq (.poll c r pt 0)

/-- Calls `start()` (R150 S1), whose poll is `pt`. -/
def callStart (c : Instr) (r : Ret) (pt : Point) (s : State) : State :=
  beginPoll c r pt (s.countStart.onBus (·.setStart true))

/-- Calls `stop()` (R151 P1), whose poll is `pt`. -/
def callStop (c : Instr) (r : Ret) (pt : Point) (s : State) : State :=
  beginPoll c r pt (s.onBus (·.setStop true))

/-- `write(a, n)` from W0 to the poll of W1 (R152): faults before any bus activity if a byte to be sent
is unset (60_exceptions R266). -/
def callWrite (c : Instr) (r : Ret) (a : Addr7) (n : Nat) (s : State) : State :=
  match firstUnsetTx s n with
  | some j => raiseFault .unset (txInfo j) s
  | none => callStart c r (.w1 a n) s

/-- W8 to W12 from byte `i` on (R152): the next data byte, or the final `stop()`. -/
def sendByte (c : Instr) (r : Ret) (a : Addr7) (n i : Nat) (s : State) : State :=
  if i < n then
    match s.txByte i with
    | some b => beginPoll c r (.w10 a n i) (s.onBus (·.writeDR b))
    | none => raiseFault .unset (txInfo i) s
  else callStop c r (.wStop .success) s

/-- `read(a, n)` from RD2, n ≥ 1, to the poll of its `start()` (R153). -/
def callRead (c : Instr) (r : Ret) (a : Addr7) (n : Nat) (s : State) : State :=
  callStart c r (.rd2 a n) s

/-- RD8 and RD9, one step (R153, R158): reception enabled, and for one byte ACK off and STOP requested,
else ACK on. -/
def armReceive (n : Nat) (p : Periph) : Periph :=
  if n = 1 then (p.clearStatus.setAck false).setStop true else p.clearStatus.setAck true

/-- RD13 and RD14, one step (R153, R158): `RXBUF[i] <- ReadDR()`, and after the second-to-last byte ACK
off and STOP requested. -/
def takeByte (n i : Nat) (s : State) : State :=
  let s' := (s.putRx i s.bus.dr).onBus Periph.readDR
  if i + 2 = n then s'.onBus (fun p => (p.setAck false).setStop true) else s'

/-- Attempt `k` of `probe(a, m)` from Q2 (R154). -/
def probeAttempt (c : Instr) (r : Ret) (a : Addr7) (m k : Nat) (s : State) : State :=
  callStart c r (.q2 a m k) s

end Sys2Proof.Machine
end

