-- ==== Sys2Proof/Machine/Compensation.lean ====
section
/-! DEFINITION. The compensation engine (42_compensation): the temperature and pressure functions on
integers (R236, R238), and the bodies of `COMP_T` and `COMP_P` on the state (R236, R240). -/

namespace Sys2Proof.Machine

/-! ## The pure functions -/

/-- `compT` (R236): `(t_fine, T)`, every operation by the 32-bit law (R232). -/
def compTInt (rawT t1 t2 t3 : Int) : Int × Int :=
  let x1 := subW 32 (asr rawT 3) (shlW 32 t1 1)
  let var1 := asr (mulW 32 x1 t2) 11
  let d := subW 32 (asr rawT 4) t1
  let var2 := asr (mulW 32 (asr (mulW 32 d d) 12) t3) 14
  let tf := addW 32 var1 var2
  (tf, asr (addW 32 (mulW 32 tf 5) 128) 8)

/-- The pressure path up to its denominator (R238): `(v2, v1)`. -/
def compPDenom (tf p1 p2 p3 p4 p5 p6 : Int) : Int × Int :=
  let v1 := subW 64 tf 128000
  let v2 := mulW 64 (mulW 64 v1 v1) p6
  let v2 := addW 64 v2 (shlW 64 (mulW 64 v1 p5) 17)
  let v2 := addW 64 v2 (shlW 64 p4 35)
  let v1 := addW 64 (asr (mulW 64 (mulW 64 v1 v1) p3) 8) (shlW 64 (mulW 64 v1 p2) 12)
  (v2, asr (mulW 64 (addW 64 (2 ^ 47) v1) p1) 33)

/-- The pressure path after its denominator `v1`, which is not 0 (R238): the s64 Q24.8 pressure. -/
def compPQuot (rawP v2 v1 p7 p8 p9 : Int) : Int :=
  let p := subW 64 1048576 rawP
  let p := divW 64 (mulW 64 (subW 64 (shlW 64 p 31) v2) 3125) v1
  let w1 := asr (mulW 64 (mulW 64 p9 (asr p 13)) (asr p 13)) 25
  let w2 := asr (mulW 64 p8 p) 19
  addW 64 (asr (addW 64 (addW 64 p w1) w2) 8) (shlW 64 p7 4)

/-- `compP` (R238, R239): `(q, Pa)`, the zero denominator giving `(0, 0)` with no division. -/
def compPInt (rawP tf p1 p2 p3 p4 p5 p6 p7 p8 p9 : Int) : Nat × Nat :=
  let d := compPDenom tf p1 p2 p3 p4 p5 p6
  if d.2 = 0 then (0, 0)
  else
    let q := ((compPQuot rawP d.1 d.2 p7 p8 p9) % 2 ^ 32).toNat
    (q, lsr q 8)

/-- The temperature path on register contents (R231, R236): `(TFINE, TEMP)`. -/
def compTemp (c : CalSet) (rawT : Raw) : Word × Word :=
  let r := compTInt (uval rawT) (uval c.t1) (sval c.t2) (sval c.t3)
  (BitVec.ofInt 32 r.1, BitVec.ofInt 32 r.2)

/-- The pressure path on register contents (R231, R238): `PRES`. -/
def compPres (c : CalSet) (rawP : Raw) (tf : Word) : Word :=
  BitVec.ofNat 32
    (compPInt (uval rawP) (sval tf) (uval c.p1) (sval c.p2) (sval c.p3) (sval c.p4) (sval c.p5)
      (sval c.p6) (sval c.p7) (sval c.p8) (sval c.p9)).2

/-! ## On the state -/

/-- `COMP_T` (R236): the fault checks in the order of 60_exceptions R271, then the three registers. -/
def runCompT (s : State) : State :=
  match s.data.cal, s.data.raw with
  | none, _ => raiseFault .unset 0x01 s
  | some _, none => raiseFault .unset 0x02 s
  | some c, some r =>
    let v := compTemp c r.t
    s.setData { s.data with tfine := some v.1, temp := some v.2, tfineFresh := true }

/-- `COMP_P` (R240): the fault checks in the order of 60_exceptions R271, then `PRES`. The last case,
`TFINE_FRESH` with `TFINE` unset, is R266's `INFO` 0x03, which no run reaches. -/
def runCompP (s : State) : State :=
  match s.data.cal, s.data.raw with
  | none, _ => raiseFault .unset 0x01 s
  | some _, none => raiseFault .unset 0x02 s
  | some c, some r =>
    if s.data.tfineFresh = false then raiseFault .tfineStale 0x00 s
    else
      match s.data.tfine with
      | none => raiseFault .unset 0x03 s
      | some tf => s.setData { s.data with pres := some (compPres c r.p tf) }

/-- The first step of `COMP_T`, which is also its last. -/
def enterCompT (s : State) : State := unlessFaulted endCmd (runCompT s)

/-- The first step of `COMP_P`, which is also its last. -/
def enterCompP (s : State) : State := unlessFaulted endCmd (runCompP s)

/-- A2 to A4 of `ACQUIRE` (R244), after its `READ_RAW`. -/
def acquireRest (s : State) : State :=
  unlessFaulted endCmd (unlessFaulted runCompP (runCompT s))

end Sys2Proof.Machine
end

