-- ==== Sys2Proof/Machine/Sensor.lean ====
section
/-! DEFINITION. The sensor register protocol (41_sensor): its commands line by line, each definition a
run of non-poll actions up to the next poll or the command's end (10_state R39). -/

namespace Sys2Proof.Machine

/-! ## Register access (R201) -/

/-- `regwrite(r, v)` up to its first poll (R201). -/
def callRegWrite (c : Instr) (ret : Ret) (r v : Byte) (s : State) : State :=
  callWrite c ret Config.devAddr 2 ((s.putTx 0 r).putTx 1 v)

/-- `regread(r, n)` up to its first poll (R201): the pointer write. -/
def callRegRead (c : Instr) (ret : Ret) (r : Byte) (s : State) : State :=
  callWrite c ret Config.devAddr 1 (s.putTx 0 r)

/-! ## CONFIGURE (R204) -/

/-- G1. -/
def beginConfigure (c : Instr) (s : State) : State :=
  callRegWrite c .g1 s.params.regCtrlMeas Config.ctrlMeasVal s

/-- G2, attempted whatever G1 returned. -/
def configureG2 (c : Instr) (s : State) : State :=
  callRegWrite c .g2 s.params.regConfig Config.configVal s

/-! ## READ_CAL (R202) -/

/-- C1. -/
def beginReadCal (c : Instr) (s : State) : State := callRegRead c .c1Ptr s.params.regCal s

/-- What C2 to C4 do to the data registers: on success the whole set, and `TFINE_FRESH <- 0`. -/
def calUpdate (o : TxOutcome) (s : State) : State :=
  match o with
  | .success => s.setData { s.data with cal := some s.decodeCal, tfineFresh := false }
  | .addressNack => s
  | .timeout => s

/-- C2 to C5, then the end of `READ_CAL`, or I8 of `INIT` (R210). -/
def calDone (c : Instr) (o : TxOutcome) (s : State) : State :=
  if c = .init then beginConfigure c (calUpdate o s) else endCmd (calUpdate o s)

/-! ## READ_RAW (R206) -/

/-- M1. -/
def beginReadRaw (c : Instr) (s : State) : State := callRegRead c .m1Ptr s.params.regData s

/-- The sample of a failed `READ_RAW`: two draws, `RAW_P` first. -/
def drawRaw (s : State) : State :=
  s.afterDraw.afterDraw.setData
    { s.data with raw := some { p := s.drawn 20, t := s.afterDraw.drawn 20 }, tfineFresh := false }

/-- M2 and M3: the decoded sample, or draws; `TFINE_FRESH <- 0` whatever the outcome. -/
def rawUpdate (o : TxOutcome) (s : State) : State :=
  match o with
  | .success => s.setData { s.data with raw := some s.decodeRaw, tfineFresh := false }
  | .addressNack => drawRaw s
  | .timeout => drawRaw s

/-- M2 to M4, then the end of `READ_RAW`, or A2 of `ACQUIRE` (R244). -/
def rawDone (c : Instr) (o : TxOutcome) (s : State) : State :=
  if c = .acquire then acquireRest (rawUpdate o s) else endCmd (rawUpdate o s)

/-! ## INIT (R210, R211) -/

/-- I4 and I5: the identity byte, a draw when the read failed. -/
def idUpdate (o : TxOutcome) (s : State) : State :=
  match o with
  | .success => s.setData { s.data with lastId := some (s.rxVal 0) }
  | .addressNack => s.afterDraw.setData { s.data with lastId := some (s.drawn 8) }
  | .timeout => s.afterDraw.setData { s.data with lastId := some (s.drawn 8) }

/-- I4 to I7: any byte but `CHIP_ID` aborts. -/
def idDone (c : Instr) (o : TxOutcome) (s : State) : State :=
  let s' := idUpdate o s
  if s'.data.lastId = some Config.chipId then beginReadCal c s' else endCmd s'

/-- I3. -/
def beginIdentity (c : Instr) (s : State) : State := callRegRead c .i3Ptr s.params.regId s

/-- The end of a probe (R154 Q7, Q9; 10_state R59): `READY`, then the command's end, or I2 and I3. -/
def returnProbe (c : Instr) (r : Ret) (ready : Bool) (s : State) : State :=
  match r with
  | .i1 => if ready then beginIdentity c (s.setReady ready) else endCmd (s.setReady ready)
  | .top => endCmd (s.setReady ready)
  | .c1Ptr => endCmd (s.setReady ready)
  | .c1Burst => endCmd (s.setReady ready)
  | .g1 => endCmd (s.setReady ready)
  | .g2 => endCmd (s.setReady ready)
  | .m1Ptr => endCmd (s.setReady ready)
  | .m1Burst => endCmd (s.setReady ready)
  | .i3Ptr => endCmd (s.setReady ready)
  | .i3Burst => endCmd (s.setReady ready)

/-- `probe(a, m)` from Q1 (R154): no attempts, no bus activity. -/
def callProbe (c : Instr) (r : Ret) (a : Addr7) (m : Nat) (s : State) : State :=
  if m = 0 then returnProbe c r false s else probeAttempt c r a m 1 s

/-- The end of a `write` (R152): `OUTCOME` (10_state R58), then the caller's next line. A pointer write
that failed skips its burst (R201). -/
def returnWrite (c : Instr) (r : Ret) (o : TxOutcome) (s : State) : State :=
  match r with
  | .top => endCmd (s.setOutcome o)
  | .g1 => configureG2 c (s.setOutcome o)
  | .g2 => endCmd (s.setOutcome o)
  | .c1Ptr =>
    if o = .success then callRead c .c1Burst Config.devAddr Config.calLen (s.setOutcome o)
    else calDone c o (s.setOutcome o)
  | .m1Ptr =>
    if o = .success then callRead c .m1Burst Config.devAddr Config.rawLen (s.setOutcome o)
    else rawDone c o (s.setOutcome o)
  | .i3Ptr =>
    if o = .success then callRead c .i3Burst Config.devAddr 1 (s.setOutcome o)
    else idDone c o (s.setOutcome o)
  | .i1 => endCmd (s.setOutcome o)
  | .c1Burst => endCmd (s.setOutcome o)
  | .m1Burst => endCmd (s.setOutcome o)
  | .i3Burst => endCmd (s.setOutcome o)

/-- The end of a `read` (R153): `OUTCOME` (10_state R58), then the caller's next line. -/
def returnRead (c : Instr) (r : Ret) (o : TxOutcome) (s : State) : State :=
  match r with
  | .c1Burst => calDone c o (s.setOutcome o)
  | .m1Burst => rawDone c o (s.setOutcome o)
  | .i3Burst => idDone c o (s.setOutcome o)
  | .top => endCmd (s.setOutcome o)
  | .c1Ptr => endCmd (s.setOutcome o)
  | .g1 => endCmd (s.setOutcome o)
  | .g2 => endCmd (s.setOutcome o)
  | .m1Ptr => endCmd (s.setOutcome o)
  | .i1 => endCmd (s.setOutcome o)
  | .i3Ptr => endCmd (s.setOutcome o)

end Sys2Proof.Machine
end

