-- ==== Sys2Proof/Machine/Sequencer.lean ====
section
/-! DEFINITION. The sequencer: what follows each poll (40_bus R150–R154), one sequencer step (10_state
R39, R40), how many steps a command can still take (R156, R214), and running a command to its end with
the bus agent's turns in between (30_encoding R120 `ISSUE`). -/

namespace Sys2Proof.Machine

/-! ## After a poll -/

/-- The outcome a bare `start()` or `stop()` returns (S3, P3). -/
def pollOutcome (res : Option Obs) : TxOutcome :=
  match res with
  | some _ => .success
  | none => .timeout

/-- What follows the address poll of a `write` (W5 to W9): `AF` is tested first, on the observation
that ended the poll (R144). -/
def afterW4 (c : Instr) (r : Ret) (a : Addr7) (n : Nat) (res : Option Obs) (s : State) : State :=
  match res with
  | none => callStop c r (.wStop .timeout) s
  | some obs =>
    if obs.sr1.af then callStop c r (.wStop .addressNack) (s.onBus Periph.clearAF)
    else sendByte c r a n 0 (s.onBus Periph.clearStatus)

/-- What follows the address poll of a `read` (RD6 to RD11): `AF` is tested first (R144). -/
def afterRd5 (c : Instr) (r : Ret) (a : Addr7) (n : Nat) (res : Option Obs) (s : State) : State :=
  match res with
  | none => callStop c r (.rdStop .timeout) s
  | some obs =>
    if obs.sr1.af then callStop c r (.rdStop .addressNack) (s.onBus Periph.clearAF)
    else beginPoll c r (.rd11 a n 0) (s.onBus (armReceive n))

/-- What follows a byte poll of a `read` (RD12 to RD15): the byte, then the next poll or the return,
with no wait for the STOP. -/
def afterRd11 (c : Instr) (r : Ret) (a : Addr7) (n i : Nat) (res : Option Obs) (s : State) : State :=
  match res with
  | none => callStop c r (.rdStop .timeout) s
  | some _ =>
    if i + 1 < n then beginPoll c r (.rd11 a n (i + 1)) (takeByte n i s)
    else returnRead c r .success (takeByte n i s)

/-- The next attempt of a probe, or Q9. -/
def nextAttempt (c : Instr) (r : Ret) (a : Addr7) (m k : Nat) (s : State) : State :=
  if k < m then probeAttempt c r a m (k + 1) s else returnProbe c r false s

/-- What follows the address poll of a `probe` (Q6 to Q8): `ADDR` is tested first (R144). -/
def afterQ5 (c : Instr) (r : Ret) (a : Addr7) (m k : Nat) (res : Option Obs) (s : State) : State :=
  match res with
  | none => callStop c r (.qStop a m k false) s
  | some obs =>
    if obs.sr1.addr then callStop c r (.qStop a m k true) (s.onBus Periph.clearStatus)
    else callStop c r (.qStop a m k false) (s.onBus Periph.clearAF)

/-- The run of non-poll actions after the poll at `pt` (R39): `res` is the observation that ended it,
or `none` for `TIMEOUT`. `stop()`'s own result is discarded (92 D10). -/
def resume (c : Instr) (r : Ret) (pt : Point) (res : Option Obs) (s : State) : State :=
  match pt with
  | .s2 => endCmd (s.setOutcome (pollOutcome res))
  | .p2 => endCmd (s.setOutcome (pollOutcome res))
  | .w1 a n =>
    if res.isSome then beginPoll c r (.w4 a n) (s.onBus (·.writeDR (addrByte a false)))
    else callStop c r (.wStop .timeout) s
  | .w4 a n => afterW4 c r a n res s
  | .w10 a n i =>
    if res.isSome then sendByte c r a n (i + 1) s else callStop c r (.wStop .timeout) s
  | .wStop o => returnWrite c r o s
  | .rd2 a n =>
    if res.isSome then beginPoll c r (.rd5 a n) (s.onBus (·.writeDR (addrByte a true)))
    else callStop c r (.rdStop .timeout) s
  | .rd5 a n => afterRd5 c r a n res s
  | .rd11 a n i => afterRd11 c r a n i res s
  | .rdStop o => returnRead c r o s
  | .q2 a m k =>
    if res.isSome then beginPoll c r (.q5 a m k) (s.onBus (·.writeDR (addrByte a false)))
    else nextAttempt c r a m k s
  | .q5 a m k => afterQ5 c r a m k res s
  | .qStop a m k acked => if acked then returnProbe c r true s else nextAttempt c r a m k s

/-! ## The first step of a command -/

/-- The run of non-poll actions a command begins with (R39). -/
def enter (c : Instr) (s : State) : State :=
  match c with
  | .start => callStart c .top .s2 s
  | .stop => callStop c .top .p2 s
  | .write a n => callWrite c .top a n.toNat s
  | .read a n =>
    if n = 0 then endCmd (s.setOutcome .success) else callRead c .top a n.toNat s
  | .probe a m => callProbe c .top a m.toNat s
  | .readCal => beginReadCal c s
  | .configure => beginConfigure c s
  | .readRaw => beginReadRaw c s
  | .init => callProbe c .i1 Config.devAddr s.params.readyAttempts.toNat s
  | .compT => enterCompT s
  | .compP => enterCompP s
  | .acquire => beginReadRaw c s

/-! ## One step (R39, R40, R141) -/

/-- One observation of the poll at `pt`, which has made `j` so far (R141): it ends the poll if it meets
the condition, or if it was the last of the budget. -/
def observeStep (c : Instr) (r : Ret) (pt : Point) (j : Nat) (s : State) : State :=
  let obs := s.bus.observe
  let s' := s.countObservation
  if pt.cond obs then s'.setSeq (.polled c r pt (some obs))
  else if j + 1 < pt.budget s.params then s'.setSeq (.poll c r pt (j + 1))
  else s'.setSeq (.polled c r pt none)

/-- One sequencer step (R39): while `IDLE` there is none (70_reset R292). -/
def seqStep (s : State) : State :=
  match s.seq with
  | .idle => s
  | .entry c => enter c s.countSeqStep
  | .poll c r pt j => observeStep c r pt j s.countSeqStep
  | .polled c r pt res => resume c r pt res s.countSeqStep

/-- The sequencer's turn: nothing on a faulted core (60_exceptions R265) or an idle one, else one step
and then the bus agent's own part. -/
def sequencerTurn (s : State) : State :=
  if s.busy && !s.faulted then unlessFaulted busWindow (seqStep s) else s

/-! ## How many steps are left (R156, R214)

A poll with budget `B` takes at most `B` observations and one step after it. -/

/-- At most so many steps from a `write(a, n)`'s first poll to its return (R156). -/
def writeCost (p : Params) (n : Nat) : Nat :=
  (p.bStart + 1) + ((p.bAddr + 1) + (n * (p.bBtf + 1) + (p.bStop + 1)))

/-- At most so many steps from a `read(a, n)`'s first poll to its return, n ≥ 1 (R156). -/
def readCost (p : Params) (n : Nat) : Nat :=
  (p.bStart + 1) + ((p.bAddr + 1) + (n * (p.bRxne + 1) + (p.bStop + 1)))

/-- At most so many steps for one attempt of a `probe` (R156). -/
def attemptCost (p : Params) : Nat := (p.bStart + 1) + ((p.bAddr + 1) + (p.bStop + 1))

/-- What follows a `READ_CAL`: the `CONFIGURE` of an `INIT` (R210 I8), or nothing. -/
def calTail (p : Params) (c : Instr) : Nat :=
  if c = .init then writeCost p 2 + writeCost p 2 else 0

/-- At most so many steps after the step in which a sub-sequence returns to `r` (R214). -/
def retCost (p : Params) (c : Instr) : Ret → Nat
  | .top => 0
  | .g2 => 0
  | .g1 => writeCost p 2
  | .c1Burst => calTail p c
  | .c1Ptr => readCost p Config.calLen + calTail p c
  | .m1Burst => 0
  | .m1Ptr => readCost p Config.rawLen
  | .i3Burst => writeCost p 1 + (readCost p Config.calLen + calTail p c)
  | .i3Ptr => readCost p 1 + (writeCost p 1 + (readCost p Config.calLen + calTail p c))
  | .i1 =>
    writeCost p 1 + (readCost p 1 + (writeCost p 1 + (readCost p Config.calLen + calTail p c)))

/-- At most so many steps after the step that follows the poll at a program point. (A `read` that polls
has n ≥ 1; `max n 1` makes the bound hold of every state.) -/
def pointCost (p : Params) (c : Instr) (r : Ret) : Point → Nat
  | .s2 => 0
  | .p2 => 0
  | .w1 _ n => (p.bAddr + 1) + (n * (p.bBtf + 1) + ((p.bStop + 1) + retCost p c r))
  | .w4 _ n => n * (p.bBtf + 1) + ((p.bStop + 1) + retCost p c r)
  | .w10 _ n i => (n - (i + 1)) * (p.bBtf + 1) + ((p.bStop + 1) + retCost p c r)
  | .wStop _ => retCost p c r
  | .rd2 _ n => (p.bAddr + 1) + (max n 1 * (p.bRxne + 1) + ((p.bStop + 1) + retCost p c r))
  | .rd5 _ n => max n 1 * (p.bRxne + 1) + ((p.bStop + 1) + retCost p c r)
  | .rd11 _ n i => (n - (i + 1)) * (p.bRxne + 1) + ((p.bStop + 1) + retCost p c r)
  | .rdStop _ => retCost p c r
  | .q2 _ m k => (p.bAddr + 1) + ((p.bStop + 1) + ((m - k) * attemptCost p + retCost p c r))
  | .q5 _ m k => (p.bStop + 1) + ((m - k) * attemptCost p + retCost p c r)
  | .qStop _ m k _ => (m - k) * attemptCost p + retCost p c r

/-- At most so many steps after a command's first one (R156, R214). -/
def entryCost (p : Params) (c : Instr) : Nat :=
  match c with
  | .start => p.bStart + 1
  | .stop => p.bStop + 1
  | .write _ n => writeCost p n.toNat
  | .read _ n => readCost p n.toNat
  | .probe _ m => m.toNat * attemptCost p
  | .readCal => writeCost p 1 + retCost p c .c1Ptr
  | .configure => writeCost p 2 + writeCost p 2
  | .readRaw => writeCost p 1 + retCost p c .m1Ptr
  | .init => p.readyAttempts.toNat * attemptCost p + retCost p c .i1
  | .compT => 0
  | .compP => 0
  | .acquire => writeCost p 1 + retCost p c .m1Ptr

/-- At most so many sequencer steps until `SEQ` is `IDLE` or the core has faulted. -/
def stepsLeft (p : Params) : Seq → Nat
  | .idle => 0
  | .entry c => 1 + entryCost p c
  | .poll c r pt j => (pt.budget p - (j + 1)) + 2 + pointCost p c r pt
  | .polled c r pt _ => 1 + pointCost p c r pt

/-! ## A command from its issue to its end -/

/-- One turn while the host waits for the command (R120 `WAIT`): the agenda's bus and sequencer turns in
their order; the host's own next turn and a reset stay where they are until the command has ended, and
the sequencer goes on (log 2). -/
def waitTurn (s : State) : State :=
  match s.agenda with
  | [] => sequencerTurn s
  | .seq :: rest => sequencerTurn (s.setAgenda rest)
  | .bus e :: rest => busTurn e (s.setAgenda rest)
  | .host :: _ => sequencerTurn s
  | .reset :: _ => sequencerTurn s

/-- Turns until the command has ended or the core has faulted, at most `k`. -/
def runTurns : Nat → State → State
  | 0, s => s
  | k + 1, s => if s.busy && !s.faulted then runTurns k (waitTurn s) else s

/-- Turns enough for the command in progress, however the agenda interleaves (R156). -/
def runCommand (s : State) : State := runTurns (s.agenda.length + stepsLeft s.params s.seq) s

/-- A host write of `CMD` (10_state R31) that encodes `c`, or no command: `F_BUSY` while one runs
(60_exceptions R267); else the word is latched (log 5), and starts its command or raises `F_ILLEGAL`
(R264). -/
def acceptCmd (w : Word) (c : Option Instr) (s : State) : State :=
  if s.busy then raiseFault .busy 0x00 s
  else
    match c with
    | none => raiseFault .illegal (fieldOpc w) (s.setCmd w)
    | some i => (s.setCmd w).setSeq (.entry i)

/-- `ISSUE` (R120): the write of `CMD` and the wait for the command's end. On a faulted core the write
has no effect (60_exceptions R265). A command no word encodes is illegal (log 18). -/
def issue (i : Instr) (s : State) : State :=
  unlessFaulted (fun s => runCommand (acceptCmd (encode i) (if i.wf then some i else none) s)) s

end Sys2Proof.Machine
end

