-- ==== Sys2Proof/Machine/CompensationCommands.lean ====
section
/-! DEFINITION. The compensation commands (42_compensation R236, R240, R244). -/

namespace Sys2Proof.Machine

/-- `COMP_T` (R236): `TFINE`, `TEMP`, `TFINE_FRESH`. -/
def execCompT (s : State) : Host.Outcome State Fault Refusal := .next (issue .compT s)

/-- `COMP_P` (R240): `PRES`. -/
def execCompP (s : State) : Host.Outcome State Fault Refusal := .next (issue .compP s)

/-- `ACQUIRE` (R244): `READ_RAW`, `COMP_T`, `COMP_P`. -/
def execAcquire (s : State) : Host.Outcome State Fault Refusal := .next (issue .acquire s)

end Sys2Proof.Machine
end

