-- ==== Sys2Proof/Machine/SensorCommands.lean ====
section
/-! DEFINITION. The sensor commands (41_sensor R202, R204, R206, R210). -/

namespace Sys2Proof.Machine

/-- `READ_CAL` (R202): the calibration block, all twelve registers or none. -/
def execReadCal (s : State) : Host.Outcome State Fault Refusal := .next (issue .readCal s)

/-- `CONFIGURE` (R204): two register writes, both attempted. -/
def execConfigure (s : State) : Host.Outcome State Fault Refusal := .next (issue .configure s)

/-- `READ_RAW` (R206): the raw sample, drawn when a transaction fails. -/
def execReadRaw (s : State) : Host.Outcome State Fault Refusal := .next (issue .readRaw s)

/-- `INIT` (R210): probe, identity, `READ_CAL`, `CONFIGURE`. -/
def execInit (s : State) : Host.Outcome State Fault Refusal := .next (issue .init s)

end Sys2Proof.Machine
end

