-- ==== Sys2Proof/Machine/TransportCommands.lean ====
section
/-! DEFINITION. The transport commands (40_bus R150–R154): each is issued and runs its own pseudocode
from its entry (`enter`) through its polls (`resume`) to its end. -/

namespace Sys2Proof.Machine

/-- `START` (R150): `STATUS.OUTCOME <- start()`. -/
def execStart (s : State) : Host.Outcome State Fault Refusal := .next (issue .start s)

/-- `STOP` (R151): `STATUS.OUTCOME <- stop()`. -/
def execStop (s : State) : Host.Outcome State Fault Refusal := .next (issue .stop s)

/-- `WRITE a, n` (R152): `STATUS.OUTCOME <- write(a, n)`, the bytes from `TXBUF`. -/
def execWrite (a : Addr7) (n : BitVec 8) (s : State) : Host.Outcome State Fault Refusal :=
  .next (issue (.write a n) s)

/-- `READ a, n` (R153): `STATUS.OUTCOME <- read(a, n)`, the bytes to `RXBUF`. -/
def execRead (a : Addr7) (n : BitVec 8) (s : State) : Host.Outcome State Fault Refusal :=
  .next (issue (.read a n) s)

/-- `PROBE a, m` (R154): `STATUS.READY` from `probe(a, m)`; `OUTCOME` is not written. -/
def execProbe (a : Addr7) (m : BitVec 8) (s : State) : Host.Outcome State Fault Refusal :=
  .next (issue (.probe a m) s)

end Sys2Proof.Machine
end

