-- ==== Sys2Proof/Machine/Dispatch.lean ====
section
/-! DEFINITION. The meaning of each command (30_encoding R114), one arm per constructor. -/

namespace Sys2Proof.Machine

def exec (i : Instr) (s : State) : Host.Outcome State Fault Refusal :=
  match i with
  | .start => Sys2Proof.Machine.execStart s
  | .stop => Sys2Proof.Machine.execStop s
  | .write a n => Sys2Proof.Machine.execWrite a n s
  | .read a n => Sys2Proof.Machine.execRead a n s
  | .probe a m => Sys2Proof.Machine.execProbe a m s
  | .readCal => Sys2Proof.Machine.execReadCal s
  | .configure => Sys2Proof.Machine.execConfigure s
  | .readRaw => Sys2Proof.Machine.execReadRaw s
  | .init => Sys2Proof.Machine.execInit s
  | .compT => Sys2Proof.Machine.execCompT s
  | .compP => Sys2Proof.Machine.execCompP s
  | .acquire => Sys2Proof.Machine.execAcquire s

end Sys2Proof.Machine
end

