-- ==== Sys2Proof/Machine/HostAgent.lean ====
section
/-! DEFINITION. The host: accesses to its window (20_memory R81–R84; 60_exceptions R265–R268, R271), the
lines of its program (30_encoding R119, R120), and whose turn it is. -/

namespace Sys2Proof.Machine

/-! ## The window map (R81) -/

/-- The registers of the window. -/
inductive Reg where
  | cmd
  | status
  | ctrl
  | fault
  | temp
  | pres
  | tfine
  | rawT
  | rawP
  | lastId
  | cal (k : Nat)   -- k = 0..11
  | tx (w : Nat)    -- w = 0..7
  | rx (w : Nat)    -- w = 0..7
deriving DecidableEq, Repr

/-- The register at a window offset (R81); `none` where nothing is mapped. -/
def regAt (off : Nat) : Option Reg :=
  if off % 4 ≠ 0 then none
  else if off = 0x00 then some .cmd
  else if off = 0x04 then some .status
  else if off = 0x08 then some .ctrl
  else if off = 0x0C then some .fault
  else if off = 0x10 then some .temp
  else if off = 0x14 then some .pres
  else if off = 0x18 then some .tfine
  else if off = 0x1C then some .rawT
  else if off = 0x20 then some .rawP
  else if off = 0x24 then some .lastId
  else if 0x40 ≤ off ∧ off < 0x70 then some (.cal ((off - 0x40) / 4))
  else if 0x80 ≤ off ∧ off < 0xA0 then some (.tx ((off - 0x80) / 4))
  else if 0xA0 ≤ off ∧ off < 0xC0 then some (.rx ((off - 0xA0) / 4))
  else none

/-- The register a host access reaches: 32 bits wide, aligned, mapped (R82). -/
def accessReg (width : Nat) (off : Word) : Option Reg := if width = 4 then regAt off.toNat else none

/-! ## Reading (R54, R84) -/

/-- The `k`-th calibration register of a set (R53). -/
def CalSet.field (c : CalSet) (k : Nat) : Half :=
  match k with
  | 0 => c.t1
  | 1 => c.t2
  | 2 => c.t3
  | 3 => c.p1
  | 4 => c.p2
  | 5 => c.p3
  | 6 => c.p4
  | 7 => c.p5
  | 8 => c.p6
  | 9 => c.p7
  | 10 => c.p8
  | _ => c.p9

/-- Byte `k` of a word. -/
def wordByte (w : Word) (k : Nat) : Byte := w.extractLsb' (8 * k) 8

/-- A buffer word from its four bytes (R35), an unset byte taken from the drawn word `d` (R54). -/
def bufferWord (m : Memory) (base w : Nat) (d : Word) : Word :=
  bytesWord ((memGet m (base + 4 * w)).getD (wordByte d 0))
    ((memGet m (base + 4 * w + 1)).getD (wordByte d 1))
    ((memGet m (base + 4 * w + 2)).getD (wordByte d 2))
    ((memGet m (base + 4 * w + 3)).getD (wordByte d 3))

/-- Whether a buffer word has an unset byte. -/
def bufferUnset (m : Memory) (base w : Nat) : Bool :=
  (memGet m (base + 4 * w)).isNone || (memGet m (base + 4 * w + 1)).isNone ||
    (memGet m (base + 4 * w + 2)).isNone || (memGet m (base + 4 * w + 3)).isNone

/-- What a register reads as, its unset bits taken from the drawn word `d` and its reserved bits 0
(R31–R36, R53–R57, R60). -/
def Reg.value (g : Reg) (s : State) (d : Word) : Word :=
  match g with
  | .cmd => s.cmd
  | .status => s.statusWord
  | .ctrl => s.ctrlWord
  | .fault => s.faultWord
  | .temp => s.data.temp.getD d
  | .pres => s.data.pres.getD d
  | .tfine => s.data.tfine.getD d
  | .rawT => ((s.data.raw.map RawSample.t).getD (d.setWidth 20)).setWidth 32
  | .rawP => ((s.data.raw.map RawSample.p).getD (d.setWidth 20)).setWidth 32
  | .lastId => (s.data.lastId.getD (d.setWidth 8)).setWidth 32
  | .cal k => ((s.data.cal.map (·.field k)).getD (d.setWidth 16)).setWidth 32
  | .tx w => bufferWord s.mem txBase w d
  | .rx w => bufferWord s.mem rxBase w d

/-- Whether a register holds unset bits, which a read draws (R54). -/
def Reg.hasUnset (g : Reg) (s : State) : Bool :=
  match g with
  | .cmd => false
  | .status => false
  | .ctrl => false
  | .fault => false
  | .temp => s.data.temp.isNone
  | .pres => s.data.pres.isNone
  | .tfine => s.data.tfine.isNone
  | .rawT => s.data.raw.isNone
  | .rawP => s.data.raw.isNone
  | .lastId => s.data.lastId.isNone
  | .cal _ => s.data.cal.isNone
  | .tx w => bufferUnset s.mem txBase w
  | .rx w => bufferUnset s.mem rxBase w

/-- The word a host read returns: a draw for a bad access (R265, R268), else the register with its
unset bits drawn. -/
def hostReadWord (width : Nat) (off : Word) (s : State) : Word :=
  match accessReg width off with
  | none => s.drawn 32
  | some g => g.value s (s.drawn 32)

/-- What a host read does to the core: nothing (R84), but that a bad access raises `F_BAD_ACCESS` unless
a fault is recorded already (R265, R268). A draw used is counted. -/
def hostRead (width : Nat) (off : Word) (s : State) : State :=
  match accessReg width off with
  | none => if s.faulted then s.afterDraw else raiseFault .badAccess (off.setWidth 8) s.afterDraw
  | some g => if g.hasUnset s then s.afterDraw else s

/-! ## Writing (R31, R33, R35, R83) -/

/-- A write of `CTRL` (R33). -/
def writeCtrl (v : Word) (s : State) : State :=
  if s.busy then raiseFault .busy 0x01 s
  else (s.setCtrlEn (v.getLsbD 0)).onBus (·.setPE (v.getLsbD 0))

/-- A write of word `w` of `TXBUF` (R35). -/
def writeTxWord (w : Nat) (v : Word) (s : State) : State :=
  if s.busy then raiseFault .busy 0x02 s
  else
    (((s.putTx (4 * w) (wordByte v 0)).putTx (4 * w + 1) (wordByte v 1)).putTx (4 * w + 2)
      (wordByte v 2)).putTx (4 * w + 3) (wordByte v 3)

/-- The command a word encodes, if it passes R115. -/
def cmdOf (w : Word) : Option Instr :=
  match decode w with
  | .ok i => some i
  | .error _ => none

/-- A write of a mapped register; read-only registers ignore it (R83). -/
def writeReg (g : Reg) (v : Word) (s : State) : State :=
  match g with
  | .cmd => acceptCmd v (cmdOf v) s
  | .ctrl => writeCtrl v s
  | .tx w => writeTxWord w v s
  | .status => s
  | .fault => s
  | .temp => s
  | .pres => s
  | .tfine => s
  | .rawT => s
  | .rawP => s
  | .lastId => s
  | .cal _ => s
  | .rx _ => s

/-- A host write, its checks in the order of R271: on a faulted core nothing (R265), then the access,
then the register's own. -/
def hostWrite (width : Nat) (off : Word) (v : Word) (s : State) : State :=
  if s.faulted then s
  else
    match accessReg width off with
    | none => raiseFault .badAccess (off.setWidth 8) s
    | some g => writeReg g v s

/-! ## The host program (R119) -/

/-- A host variable; one nothing has been read into has no value the spec gives (log 20). -/
def State.var (s : State) (x : Nat) : Word := (cellsGet s.host.vars x).getD (Config.hostVar x)

/-- `X[hi:lo]` as a number (00_scope R10). -/
def fieldOf (w : Word) (hi lo : Nat) : Word := (w >>> lo) &&& BitVec.ofNat 32 (2 ^ (hi + 1 - lo) - 1)

/-- A word with byte `lane` (0 to 3) replaced (R120 `TXB`). -/
def replaceByte (w : Word) (lane : Nat) (b : Byte) : Word :=
  (w &&& ~~~ ((255 : Word) <<< (8 * lane))) ||| (b.setWidth 32 <<< (8 * lane))

/-- The number a host program writes. -/
def HostVal.eval (s : State) : HostVal → Word
  | .lit v => v
  | .withByte x lane b => replaceByte (s.var x) lane b

/-- The host at the beginning of another line of its program. -/
def State.hostGoto (s : State) (pc : Nat) : State :=
  s.setHost { s.host with pc := pc, waiting := false }

/-- The host at the next line of its program. -/
def State.hostNext (s : State) : State := s.hostGoto (s.host.pc + 1)

/-- A host variable assigned. -/
def State.setVar (s : State) (x : Nat) (v : Word) : State :=
  s.setHost { s.host with vars := cellsPut s.host.vars x v }

/-- The host at the `WAIT` of the `ISSUE` line it is at (R120). -/
def State.hostAwait (s : State) : State := s.setHost { s.host with waiting := true }

/-- The `WAIT` of an `ISSUE` line (R119, R120): the host goes on once `STATUS.BUSY` reads 0, and until
then stands at the `WAIT`, past the write of `CMD`. -/
def afterIssue (s : State) : State := if s.busy then s.hostAwait else s.hostNext

/-- What the next move of the machine is: a command to run to its end, or a state reached without one. -/
inductive Move where
  | run (i : Instr) (s : State)
  | moved (s : State)
deriving DecidableEq, Repr

/-- One line of the host's program (R119). -/
def hostLine (op : HostOp) (s : State) : Move :=
  match op with
  | .write width off v => .moved (hostWrite width off (v.eval s) s).hostNext
  | .read x width off =>
    .moved ((hostRead width off s).setVar x (hostReadWord width off s)).hostNext
  | .wait => .moved (if s.busy then s else s.hostNext)
  | .ifEq x hi lo v target =>
    .moved (if fieldOf (s.var x) hi lo = v then s.hostGoto target else s.hostNext)
  | .ifNe x hi lo v target =>
    .moved (if fieldOf (s.var x) hi lo = v then s.hostNext else s.hostGoto target)
  | .halt => .moved s
  | .issue w =>
    if s.host.waiting then .moved (afterIssue s)
    else
      match cmdOf w with
      | some i => .run i s
      | none => .moved (afterIssue (hostWrite 4 0 w s))

/-- The host's turn: its next line, or nothing past its program's end. -/
def hostTurn (s : State) : Move :=
  match s.host.prog[s.host.pc]? with
  | some op => hostLine op s
  | none => .moved s

/-- The next move (20_memory R97): the turn at the head of the agenda; with no turn left, the sequencer
while a command runs and the host otherwise (95's sequential schedule with a silent scripted bus; log
1). -/
def nextMove (s : State) : Move :=
  match s.agenda with
  | .seq :: rest => .moved (sequencerTurn (s.setAgenda rest))
  | .bus e :: rest => .moved (busTurn e (s.setAgenda rest))
  | .reset :: rest => .moved (powerReset (s.setAgenda rest))
  | .host :: rest => hostTurn (s.setAgenda rest)
  | [] => if s.busy && !s.faulted then .moved (sequencerTurn s) else hostTurn s

/-- The state in which the host's next line issues the word `w` and it is the host's turn (log 2). -/
def placeCommand (w : Word) (s : State) : State :=
  (s.setAgenda (.host :: s.agenda)).setHost
    { s.host with prog := [.issue w], pc := 0, waiting := false }

/-! ## Pseudo-instructions (R120), the host variable `x` standing for R120's `X` and `S` -/

/-- `HW off, v`. -/
def hwLine (off : Word) (v : Word) : HostOp := .write 4 off (.lit v)

/-- `HR x, off`. -/
def hrLine (x : Nat) (off : Word) : HostOp := .read x 4 off

/-- `ISSUE c` as its two lines. -/
def issueLines (i : Instr) : List HostOp := [hwLine 0x00 (encode i), .wait]

/-- `TXB j, v`. -/
def txbLines (x j : Nat) (v : Byte) : List HostOp :=
  [hrLine x (BitVec.ofNat 32 (0x80 + 4 * (j / 4))),
   .write 4 (BitVec.ofNat 32 (0x80 + 4 * (j / 4))) (.withByte x (j % 4) v)]

/-- `TXW w, v`. -/
def txwLines (w : Nat) (v : Word) : List HostOp := [hwLine (BitVec.ofNat 32 (0x80 + 4 * w)) v]

/-- `REGWRITE r, v`. -/
def regWriteLines (r v : Byte) : List HostOp :=
  txwLines 0 (BitVec.ofNat 32 (v.toNat * 256 + r.toNat)) ++ issueLines (.write Config.devAddr 2)

/-- `REGPTR r`. -/
def regPtrLines (r : Byte) : List HostOp :=
  txwLines 0 (r.setWidth 32) ++ issueLines (.write Config.devAddr 1)

/-- `REGREAD r, n`, its first line being line `at0` of the program: three lines of `REGPTR`, the read of
`STATUS`, the branch past the end at line `at0 + 7`, and the `READ`. -/
def regReadLines (at0 x : Nat) (r : Byte) (n : BitVec 8) : List HostOp :=
  regPtrLines r ++
    [hrLine x 0x04, .ifNe x 2 1 0 (at0 + 7)] ++ issueLines (.read Config.devAddr n)

end Sys2Proof.Machine
end

