-- ==== Sys2Proof/Machine/Step.lean ====
section
/-! DEFINITION. One step of the machine: one turn of one agent, where a host line that issues a command
is one turn (20_memory R97; log 1, 2). -/

namespace Sys2Proof.Machine

/-- The step a move makes: a command runs to its end, and the host's wait follows it. -/
def stepMove (m : Move) : Host.Outcome State Fault Refusal :=
  match m with
  | .moved t => .next t
  | .run i t =>
    match exec i t with
    | .next u => .next (afterIssue u)
    | .fault f => .fault f
    | .refused r => .refused r

/-- One step. -/
def step (s : State) : Host.Outcome State Fault Refusal := stepMove (nextMove s)

/-- `s` with the command word of an opcode-table row placed as the host's next line, and the host to
move (log 2). -/
def State.withFetchWord (s : State) (nbits w : Nat) : State :=
  placeCommand (BitVec.ofNat 32 (w % 2 ^ nbits)) s

end Sys2Proof.Machine
end

