-- ==== Sys2Proof/Safety.lean ====
section
/-! DEFINITION. The terms claims are stated in: when the core takes a command, when a run is safe and
when it is over (70_reset R302), what a reachable state looks like, the bounds of 40_bus R156 and
41_sensor R214, and a core under the reference device (R148). -/

namespace Sys2Proof.Machine

/-! ## Runs -/

/-- The core takes a command: no command in progress, no fault recorded (10_state R31). -/
abbrev Accepts (s : State) : Prop := s.seq = .idle ∧ s.fault = none

/-- No fault has been recorded: the premise of a claim about a run (60_exceptions R265). -/
abbrev Safe (s : State) : Prop := s.fault = none

/-- A host program's run is over (70_reset R302): it stands at `HALT`, no command is in progress and no
fault is recorded. -/
abbrev Finished (s : State) : Prop :=
  s.host.prog[s.host.pc]? = some .halt ∧ s.busy = false ∧ s.fault = none

/-! ## Where the sequencer can stand -/

/-- The polls of `write(a, n)` (R152). -/
def Point.inWrite (a : Addr7) (n : Nat) : Point → Bool
  | .w1 b m => b == a && m == n
  | .w4 b m => b == a && m == n
  | .w10 b m i => b == a && m == n && decide (i < n)
  | .wStop _ => true
  | _ => false

/-- The polls of `read(a, n)`, n ≥ 1 (R153). -/
def Point.inRead (a : Addr7) (n : Nat) : Point → Bool
  | .rd2 b m => b == a && m == n && decide (0 < n)
  | .rd5 b m => b == a && m == n && decide (0 < n)
  | .rd11 b m i => b == a && m == n && decide (i < n)
  | .rdStop o => o != .success
  | _ => false

/-- The polls of `probe(a, m)` (R154), attempts 1 to m. -/
def Point.inProbe (a : Addr7) (m : Nat) : Point → Bool
  | .q2 b l k => b == a && l == m && decide (1 ≤ k ∧ k ≤ m)
  | .q5 b l k => b == a && l == m && decide (1 ≤ k ∧ k ≤ m)
  | .qStop b l k _ => b == a && l == m && decide (1 ≤ k ∧ k ≤ m)
  | _ => false

/-- The polls of the sub-sequence a line of a sensor command calls (R201, R202, R204, R206, R210). -/
def Ret.points (p : Params) (pt : Point) : Ret → Bool
  | .top => false
  | .c1Ptr => pt.inWrite Config.devAddr 1
  | .c1Burst => pt.inRead Config.devAddr Config.calLen
  | .g1 => pt.inWrite Config.devAddr 2
  | .g2 => pt.inWrite Config.devAddr 2
  | .m1Ptr => pt.inWrite Config.devAddr 1
  | .m1Burst => pt.inRead Config.devAddr Config.rawLen
  | .i1 => pt.inProbe Config.devAddr p.readyAttempts.toNat
  | .i3Ptr => pt.inWrite Config.devAddr 1
  | .i3Burst => pt.inRead Config.devAddr 1

/-- Whether the sequencer can stand at the poll `pt`, called from `r`, while `c` runs. -/
def atPoint (p : Params) (c : Instr) (r : Ret) (pt : Point) : Bool :=
  match c with
  | .start => r == .top && pt == .s2
  | .stop => r == .top && pt == .p2
  | .write a n => r == .top && pt.inWrite a n.toNat
  | .read a n => r == .top && pt.inRead a n.toNat
  | .probe a m => r == .top && pt.inProbe a m.toNat
  | .readCal => (r == .c1Ptr || r == .c1Burst) && r.points p pt
  | .configure => (r == .g1 || r == .g2) && r.points p pt
  | .readRaw => (r == .m1Ptr || r == .m1Burst) && r.points p pt
  | .init =>
    (r == .i1 || r == .i3Ptr || r == .i3Burst || r == .c1Ptr || r == .c1Burst || r == .g1 ||
      r == .g2) && r.points p pt
  | .compT => false
  | .compP => false
  | .acquire => (r == .m1Ptr || r == .m1Burst) && r.points p pt

/-- `SEQ` names a program point of its own command (10_state R37), a poll has made fewer observations
than its budget (R141), and an observation that ended a poll met its condition (R144). -/
def Seq.legal (p : Params) : Seq → Prop
  | .idle => True
  | .entry c => c.wf = true
  | .poll c r pt j => c.wf = true ∧ atPoint p c r pt = true ∧ j < pt.budget p
  | .polled c r pt res =>
    c.wf = true ∧ atPoint p c r pt = true ∧ ∀ obs, res = some obs → pt.cond obs = true

/-! ## Invariants -/

/-- The bus engine's flags agree with its phase (10_state R43, R51; 40_bus R145, R146): the bus is held
exactly outside `IDLE`, the core is its master then, and a disabled peripheral is at rest. -/
abbrev Periph.coherent (p : Periph) : Prop :=
  (p.phase = .idle ↔ p.sr2.busy = false) ∧ p.sr2.msl = p.sr2.busy ∧
    (p.sr2.tra = true → p.sr2.busy = true) ∧
    (p.cr.pe = false → p.phase = .idle ∧ p.sr1 = Periph.reset.sr1 ∧ p.sr2 = Periph.reset.sr2)

/-- `TFINE_FRESH = 1` means what it says (10_state R56): `TFINE` and `TEMP` are the temperature path's
results for the current calibration and raw sample. -/
def Readings.coherent (d : Readings) : Prop :=
  d.tfineFresh = true →
    ∃ c r, d.cal = some c ∧ d.raw = some r ∧ d.tfine = some (compTemp c r.t).1 ∧
      d.temp = some (compTemp c r.t).2

/-- What every reachable state looks like. -/
structure Inv (s : State) : Prop where
  mem : Memory.wf s.mem
  en : s.ctrlEn = s.bus.cr.pe
  bus : s.bus.coherent
  data : s.data.coherent
  seq : s.seq.legal s.params
  device : ∀ d, s.busAgent = .reference d → d.wf
  vars : cellsSorted s.host.vars

/-- While byte `i` of a burst of `n` is awaited, acknowledge generation is on exactly when it is not the
last byte (40_bus R158). -/
def Seq.ackRule (ack : Bool) : Seq → Prop
  | .poll _ _ (.rd11 _ n i) _ => ack = decide (i + 1 < n)
  | .polled _ _ (.rd11 _ n i) _ => ack = decide (i + 1 < n)
  | _ => True

/-! ## Bounds (40_bus R156, 41_sensor R214) -/

/-- `O(WRITE a, n)`. -/
def obsWrite (p : Params) (n : Nat) : Nat := p.bStart + p.bAddr + n * p.bBtf + p.bStop

/-- `O(READ a, n)`. -/
def obsRead (p : Params) (n : Nat) : Nat :=
  if n = 0 then 0 else p.bStart + p.bAddr + n * p.bRxne + p.bStop

/-- `O(PROBE a, m)`. -/
def obsProbe (p : Params) (m : Nat) : Nat := m * (p.bStart + p.bAddr + p.bStop)

/-- `O(c)`: the most observations a command makes (R156, R214). -/
def obsBound (p : Params) : Instr → Nat
  | .start => p.bStart
  | .stop => p.bStop
  | .write _ n => obsWrite p n.toNat
  | .read _ n => obsRead p n.toNat
  | .probe _ m => obsProbe p m.toNat
  | .readCal => obsWrite p 1 + obsRead p 24
  | .configure => 2 * obsWrite p 2
  | .readRaw => obsWrite p 1 + obsRead p 6
  | .init =>
    obsProbe p p.readyAttempts.toNat + obsWrite p 1 + obsRead p 1 +
      (obsWrite p 1 + obsRead p 24) + 2 * obsWrite p 2
  | .compT => 0
  | .compP => 0
  | .acquire => obsWrite p 1 + obsRead p 6

/-! ## Operands -/

/-- `TXBUF[0..n-1]` have been written (70_reset R296). -/
abbrev TxReady (s : State) (n : Nat) : Prop := ∀ j, j < n → (s.txByte j).isSome = true

/-- A window offset with a register at it (20_memory R81): 4-aligned and in one of the three ranges. -/
abbrev MappedOffset (off : Nat) : Prop :=
  off % 4 = 0 ∧ (off < 0x28 ∨ (0x40 ≤ off ∧ off < 0x70) ∨ (0x80 ≤ off ∧ off < 0xC0))

/-- A word that passes the four checks of 30_encoding R115, in its bits as a number. -/
abbrev ValidWord (w : Word) : Prop :=
  let opc := w.toNat % 256
  let addr := w.toNat / 256 % 128
  let rsv0 := w.toNat / 32768 % 2
  let n := w.toNat / 65536 % 256
  let rsv1 := w.toNat / 16777216
  opc ∈ [0x01, 0x02, 0x03, 0x04, 0x05, 0x10, 0x11, 0x12, 0x13, 0x20, 0x21, 0x22] ∧
    (rsv0 = 0 ∧ rsv1 = 0) ∧
    (opc ∉ [0x03, 0x04, 0x05] → addr = 0 ∧ n = 0) ∧
    (opc ∈ [0x03, 0x04] → n ≤ 32)

/-- The core takes a command, is enabled, its bus is free with nothing pending and no stale flag, and the
bus agent is the reference device `d` under the eager schedule (40_bus R148), with no other turns
scheduled. -/
structure UnderReference (d : RefDevice) (s : State) : Prop where
  accepts : Accepts s
  agent : s.busAgent = .reference d
  agenda : s.agenda = []
  pe : s.bus.cr.pe = true
  start : s.bus.cr.start = false
  stop : s.bus.cr.stop = false
  phase : s.bus.phase = .idle
  sb : s.bus.sr1.sb = false
  addr : s.bus.sr1.addr = false
  rxne : s.bus.sr1.rxne = false
  af : s.bus.sr1.af = false

end Sys2Proof.Machine
end

