-- ==== Sys2Proof/Certificates/Slice0/Obligations.lean ====
section
/-! DEFINITION. The statements for the provers. Each docstring names the rules of spec/ it formalises. -/

open Sys2Proof Sys2Proof.Machine

/-! ## Formulas written out from the spec -/

/-- `wrap_N` (00_scope R11) as a balanced remainder. -/
def Sys2Proof.Claims.wrapTo (n : Nat) (x : Int) : Int := x.bmod (2 ^ n)

/-- The temperature formula of 42_compensation R236 line by line, `/ 2^k` the floor. -/
def Sys2Proof.Claims.temperature (rawT t1 t2 t3 : Int) : Int × Int :=
  let w := Sys2Proof.Claims.wrapTo 32
  let x1 := w (rawT / 2 ^ 3 - w (t1 * 2))
  let var1 := w (x1 * t2) / 2 ^ 11
  let d := w (rawT / 2 ^ 4 - t1)
  let var2 := w (w (d * d) / 2 ^ 12 * t3) / 2 ^ 14
  let tFine := w (var1 + var2)
  (tFine, w (w (tFine * 5) + 128) / 2 ^ 8)

/-- The denominator of 42_compensation R238, with the `v2` computed on the way. -/
def Sys2Proof.Claims.denominator (tFine p1 p2 p3 p4 p5 p6 : Int) : Int × Int :=
  let w := Sys2Proof.Claims.wrapTo 64
  let v := w (tFine - 128000)
  let v2 := w (w (v * v) * p6)
  let v2 := w (v2 + w (w (v * p5) * 2 ^ 17))
  let v2 := w (v2 + w (p4 * 2 ^ 35))
  let v := w (w (w (v * v) * p3) / 2 ^ 8 + w (w (v * p2) * 2 ^ 12))
  (v2, w (w (2 ^ 47 + v) * p1) / 2 ^ 33)

/-- The pressure of 42_compensation R238 and R239 in Pa. -/
def Sys2Proof.Claims.pressure (rawP tFine p1 p2 p3 p4 p5 p6 p7 p8 p9 : Int) : Int :=
  let w := Sys2Proof.Claims.wrapTo 64
  let v2 := (Sys2Proof.Claims.denominator tFine p1 p2 p3 p4 p5 p6).1
  let v1 := (Sys2Proof.Claims.denominator tFine p1 p2 p3 p4 p5 p6).2
  if v1 = 0 then 0
  else
    let p := w (1048576 - rawP)
    let p := w ((w (w (w (p * 2 ^ 31) - v2) * 3125)).tdiv v1)
    let w1 := w (w (p9 * (p / 2 ^ 13)) * (p / 2 ^ 13)) / 2 ^ 25
    let w2 := w (p8 * p) / 2 ^ 19
    let p := w (w (w (p + w1) + w2) / 2 ^ 8 + w (p7 * 2 ^ 4))
    p % 2 ^ 32 / 2 ^ 8

/-- `TFINE` and `TEMP` for a calibration and a raw sample by the formula above (R231, R236). -/
def Sys2Proof.Claims.temperatureOf (c : CalSet) (r : RawSample) : Word × Word :=
  let v := Sys2Proof.Claims.temperature r.t.toNat c.t1.toNat c.t2.toInt c.t3.toInt
  (BitVec.ofInt 32 v.1, BitVec.ofInt 32 v.2)

/-- `PRES` for a calibration, a raw sample and a `TFINE` by the formula above (R231, R238). -/
def Sys2Proof.Claims.pressureOf (c : CalSet) (r : RawSample) (tFine : Word) : Word :=
  BitVec.ofInt 32 (Sys2Proof.Claims.pressure r.p.toNat tFine.toInt c.p1.toNat c.p2.toInt c.p3.toInt
    c.p4.toInt c.p5.toInt c.p6.toInt c.p7.toInt c.p8.toInt c.p9.toInt)

/-- The temperature path in 32-bit machine operations. -/
def Sys2Proof.Claims.temperatureBits (c : CalSet) (r : Raw) : Word × Word :=
  let t : Word := r.setWidth 32
  let x1 := t.sshiftRight 3 - (c.t1.setWidth 32 <<< 1)
  let var1 := (x1 * c.t2.signExtend 32).sshiftRight 11
  let d := t.sshiftRight 4 - c.t1.setWidth 32
  let var2 := ((d * d).sshiftRight 12 * c.t3.signExtend 32).sshiftRight 14
  (var1 + var2, ((var1 + var2) * 5 + 128).sshiftRight 8)

/-- The pressure path in 64-bit machine operations. -/
def Sys2Proof.Claims.pressureBits (c : CalSet) (rawP : Raw) (tFine : Word) : Word :=
  let v : BitVec 64 := tFine.signExtend 64 - 128000
  let v2 := v * v * c.p6.signExtend 64
  let v2 := v2 + (v * c.p5.signExtend 64) <<< 17
  let v2 := v2 + (c.p4.signExtend 64) <<< 35
  let v := (v * v * c.p3.signExtend 64).sshiftRight 8 + (v * c.p2.signExtend 64) <<< 12
  let v1 := ((140737488355328 + v) * c.p1.setWidth 64).sshiftRight 33
  if v1 = 0 then 0
  else
    let p : BitVec 64 := 1048576 - rawP.setWidth 64
    let p := ((p <<< 31 - v2) * 3125).sdiv v1
    let w1 := (c.p9.signExtend 64 * p.sshiftRight 13 * p.sshiftRight 13).sshiftRight 25
    let w2 := (c.p8.signExtend 64 * p).sshiftRight 19
    let p := (p + w1 + w2).sshiftRight 8 + (c.p7.signExtend 64) <<< 4
    p.setWidth 32 >>> 8

/-- The command `i` has ended: the core takes the next one, no fault has been raised, `CMD` holds its
word, and what no command changes is as it was: `CTRL.EN`, `CR.PE`, the parameters, the host. -/
def Sys2Proof.Claims.Ended (i : Instr) (s t : State) : Prop :=
  Accepts t ∧ t.cmd = encode i ∧ t.ctrlEn = s.ctrlEn ∧ t.bus.cr.pe = s.bus.cr.pe ∧
    t.params = s.params ∧ t.host = s.host

/-- The bus peripheral and the wire are untouched, when no bus agent's turn comes between: a command
that makes no observation does nothing to the bus. -/
def Sys2Proof.Claims.OffTheBus (s t : State) : Prop :=
  t.draws = s.draws ∧ t.tally.observations = s.tally.observations ∧ t.tally.starts = s.tally.starts ∧
    (s.agenda = [] → s.busAgent = .scripted → t.bus = s.bus ∧ t.wire = s.wire)

/-- The sample `READ_RAW` stores (41_sensor R206): decoded from `RXBUF[0..5]`, pressure first, after a
success; two free values after a failure (log 3). -/
def Sys2Proof.Claims.SampleOf (s t : State) (r : RawSample) : Prop :=
  (t.outcome = .success → t.draws = s.draws ∧ ∃ b : Nat → Byte,
    (∀ j, j < 6 → t.rxByte j = some (b j)) ∧
      r.p.toNat = ((b 0).toNat * 65536 + (b 1).toNat * 256 + (b 2).toNat) / 16 ∧
      r.t.toNat = ((b 3).toNat * 65536 + (b 4).toNat * 256 + (b 5).toNat) / 16) ∧
  (t.outcome ≠ .success → t.draws = s.draws + 2 ∧
    r = { p := Config.draw 20 s.draws, t := Config.draw 20 (s.draws + 1) })

/-- The core's own registers and buffers are those of `s` (the draws, the counts, the wire and the other
agents aside). -/
def Sys2Proof.Claims.SameCore (s t : State) : Prop :=
  t.cmd = s.cmd ∧ t.outcome = s.outcome ∧ t.ready = s.ready ∧ t.ctrlEn = s.ctrlEn ∧
    t.fault = s.fault ∧ t.mem = s.mem ∧ t.seq = s.seq ∧ t.bus = s.bus ∧ t.data = s.data ∧
    t.params = s.params

/-- The word at a window offset as the map of 20_memory R81 names it, `none` where it holds unset bits
(10_state R54) or nothing is mapped. Byte k of a buffer word is the byte at the offset plus k (R35, R93). -/
def Sys2Proof.Claims.windowWord (s : State) (off : Nat) : Option Word :=
  if off = 0x00 then some s.cmd
  else if off = 0x04 then some s.statusWord
  else if off = 0x08 then some s.ctrlWord
  else if off = 0x0C then some s.faultWord
  else if off = 0x10 then s.data.temp
  else if off = 0x14 then s.data.pres
  else if off = 0x18 then s.data.tfine
  else if off = 0x1C then s.data.raw.map fun r => r.t.setWidth 32
  else if off = 0x20 then s.data.raw.map fun r => r.p.setWidth 32
  else if off = 0x24 then s.data.lastId.map fun b => b.setWidth 32
  else if 0x40 ≤ off ∧ off < 0x70 then
    s.data.cal.bind fun c =>
      ([c.t1, c.t2, c.t3, c.p1, c.p2, c.p3, c.p4, c.p5, c.p6, c.p7, c.p8, c.p9][(off - 0x40) / 4]?).map
        fun v => v.setWidth 32
  else
    match memGet s.mem off, memGet s.mem (off + 1), memGet s.mem (off + 2), memGet s.mem (off + 3) with
    | some b0, some b1, some b2, some b3 => some (b3 ++ b2 ++ b1 ++ b0)
    | _, _, _, _ => none

/-- The sequencer waits at the first poll of `write(DEV_ADDR, n)`, called from `r` in an `INIT`, after
`start()` has requested a START and `TXBUF[0]` has been written (41_sensor R201). -/
def Sys2Proof.Claims.InitWrites (r : Ret) (n : Nat) (b0 : Byte) (t : State) : Prop :=
  t.seq = .poll .init r (.w1 0x77 n) 0 ∧ t.txByte 0 = some b0 ∧ t.bus.cr.start = true ∧ t.fault = none

/-! ## Encoding (30_encoding) -/

/-- Encoding and decoding agree for every command a word can encode: no operand bit is lost (R112, R113,
R117). -/
def Obligations.DecodeOfEncode : Prop := ∀ i : Instr, i.wf = true → decode (encode i) = .ok i

/-- A word that decodes is the encoding of what it decodes to, so no two words name one command (R117). -/
def Obligations.EncodeOfDecode : Prop :=
  ∀ (w : Word) (i : Instr), decode w = .ok i → i.wf = true ∧ encode i = w

/-- R117's examples and some words of 95_test_vectors section 2, one of each family. -/
def Obligations.SampleWordsDecode : Prop :=
  decode 0x00000001 = .ok .start ∧ decode 0x00027703 = .ok (.write 0x77 2) ∧
    decode 0x00187704 = .ok (.read 0x77 24) ∧ decode 0x00037705 = .ok (.probe 0x77 3) ∧
    decode 0x00000013 = .ok .init ∧ decode 0x00000022 = .ok .acquire ∧
    decode 0x00217703 = .error .countTooLarge ∧ decode 0x00008001 = .error .reservedNonzero ∧
    decode 0x00000113 = .error .operandNonzero ∧ decode 0x00000006 = .error .unknownOpcode

/-- A host write of `CMD` while the core takes a command starts the command of a word that passes R115's
checks, and raises `F_ILLEGAL` with the word's `OPC` for any other, which starts nothing (R115, R264).
What `CMD` then reads is left out: that it keeps the refused word is the model's choice (log 5). -/
def Obligations.CmdWriteChecked : Prop :=
  ∀ (s : State) (w : Word), Accepts s →
    (ValidWord w → ∃ i, decode w = .ok i ∧
      hostWrite 4 0 w s = (s.setCmd w).setSeq (.entry i) ∧ (hostWrite 4 0 w s).busy = true) ∧
    (¬ValidWord w → (hostWrite 4 0 w s).setCmd s.cmd =
      s.setFault (some { code := .illegal, info := BitVec.ofNat 8 w.toNat }))

/-! ## Arithmetic (42_compensation) -/

/-- `wrap_N` gives the only value of the N-bit two's-complement range congruent to its argument, and
`asr` is the floor (00_scope R11). -/
def Obligations.WrapAndShiftLaws : Prop :=
  (∀ (n : Nat) (x : Int), 0 < n →
    -(2 ^ (n - 1)) ≤ wrap n x ∧ wrap n x < 2 ^ (n - 1) ∧ (2 ^ n : Int) ∣ wrap n x - x ∧
      ∀ y : Int, -(2 ^ (n - 1)) ≤ y → y < 2 ^ (n - 1) → (2 ^ n : Int) ∣ y - x → y = wrap n x) ∧
  ∀ (a : Int) (k : Nat), asr a k * 2 ^ k ≤ a ∧ a < (asr a k + 1) * 2 ^ k

/-- The division law (R234): truncation toward zero on s64 operands, wrapped only for −2^63 / −1, with
its four sign examples; and a zero divisor never reaches it, since the guard returns first. -/
def Obligations.DivisionLaw : Prop :=
  (∀ a b : Int, -(2 ^ 63) ≤ a → a < 2 ^ 63 → -(2 ^ 63) ≤ b → b < 2 ^ 63 → b ≠ 0 →
    divW 64 a b = if a = -(2 ^ 63) ∧ b = -1 then -(2 ^ 63) else a.tdiv b) ∧
  (divW 64 7 2 = 3 ∧ divW 64 (-7) 2 = -3 ∧ divW 64 7 (-2) = -3 ∧ divW 64 (-7) (-2) = 3) ∧
  ∀ rawP tf p1 p2 p3 p4 p5 p6 p7 p8 p9 : Int, (compPDenom tf p1 p2 p3 p4 p5 p6).2 = 0 →
    compPInt rawP tf p1 p2 p3 p4 p5 p6 p7 p8 p9 = (0, 0)

/-- The temperature path, computed exactly and wrapped operation by operation, is what 32-bit machine
arithmetic computes (R231, R232, R236). -/
def Obligations.TemperatureIsMachineArithmetic : Prop :=
  ∀ (c : CalSet) (r : Raw), compTemp c r = Sys2Proof.Claims.temperatureBits c r

/-- The pressure path is what 64-bit machine arithmetic computes (R231, R233, R234, R238). -/
def Obligations.PressureIsMachineArithmetic : Prop :=
  ∀ (c : CalSet) (r : Raw) (tf : Word), compPres c r tf = Sys2Proof.Claims.pressureBits c r tf

/-- `COMP_T` (R236): with the calibration and the raw sample set it completes with the formula's `TFINE`
and `TEMP`, `TFINE_FRESH` 1, and nothing else of the core changed but `CMD`; without the calibration it
raises `F_UNSET` 0x01, with it but without the sample `F_UNSET` 0x02, `BUSY` staying 1 (60 R263, R266). -/
def Obligations.CompTResult : Prop :=
  ∀ s : State, Accepts s → ∃ t, exec .compT s = .next t ∧ t.outcome = s.outcome ∧
    t.ready = s.ready ∧ Sys2Proof.Claims.OffTheBus s t ∧ (∀ a, memGet t.mem a = memGet s.mem a) ∧
    (∀ c r, s.data.cal = some c → s.data.raw = some r →
      Sys2Proof.Claims.Ended .compT s t ∧
        t.data = { s.data with
          tfine := some (Sys2Proof.Claims.temperatureOf c r).1,
          temp := some (Sys2Proof.Claims.temperatureOf c r).2, tfineFresh := true }) ∧
    (s.data.cal = none →
      t.fault = some { code := .unset, info := 0x01 } ∧ t.data = s.data ∧ t.busy = true) ∧
    (s.data.cal ≠ none → s.data.raw = none →
      t.fault = some { code := .unset, info := 0x02 } ∧ t.data = s.data ∧ t.busy = true)

/-- `COMP_P` (R240, R238): with its operands set and `TFINE_FRESH` 1 it completes with the formula's
`PRES` and nothing else of the core changed but `CMD`; its faults are `F_UNSET` 0x01, `F_UNSET` 0x02 and
`F_TFINE_STALE`, in that order (60 R269, R271). -/
def Obligations.CompPResult : Prop :=
  ∀ s : State, Accepts s → ∃ t, exec .compP s = .next t ∧ t.outcome = s.outcome ∧
    t.ready = s.ready ∧ Sys2Proof.Claims.OffTheBus s t ∧ (∀ a, memGet t.mem a = memGet s.mem a) ∧
    (∀ c r tf, s.data.cal = some c → s.data.raw = some r → s.data.tfineFresh = true →
      s.data.tfine = some tf →
      Sys2Proof.Claims.Ended .compP s t ∧
        t.data = { s.data with pres := some (Sys2Proof.Claims.pressureOf c r tf) }) ∧
    (s.data.cal = none →
      t.fault = some { code := .unset, info := 0x01 } ∧ t.data = s.data ∧ t.busy = true) ∧
    (s.data.cal ≠ none → s.data.raw = none →
      t.fault = some { code := .unset, info := 0x02 } ∧ t.data = s.data ∧ t.busy = true) ∧
    (s.data.cal ≠ none → s.data.raw ≠ none → s.data.tfineFresh = false →
      t.fault = some { code := .tfineStale, info := 0x00 } ∧ t.data = s.data ∧ t.busy = true)

/-- The guard (R239): when the denominator is 0, `COMP_P` completes with `PRES = 0`, no fault, no other
register changed and `OUTCOME` as it was; `P1 = 0` is such a case. -/
def Obligations.ZeroDenominatorGuard : Prop :=
  ∀ (s : State) (c : CalSet) (r : RawSample) (tf : Word), Accepts s → s.data.cal = some c →
    s.data.raw = some r → s.data.tfineFresh = true → s.data.tfine = some tf →
    ((Sys2Proof.Claims.denominator tf.toInt c.p1.toNat c.p2.toInt c.p3.toInt c.p4.toInt c.p5.toInt
      c.p6.toInt).2 = 0 ∨ c.p1 = 0) →
    ∃ t, exec .compP s = .next t ∧ t.fault = none ∧ t.outcome = s.outcome ∧
      t.data = { s.data with pres := some 0 }

/-- Both compensations are deterministic functions of their operands, running one twice changes nothing
(R235), and they fault alike. -/
def Obligations.CompensationIsPure : Prop :=
  (∀ (i : Instr) (s t u : State), i = .compT ∨ i = .compP → Accepts s → Accepts t →
    exec i s = .next t → exec i t = .next u → u.data = t.data ∧ Accepts u) ∧
  (∀ s s' t t' : State, Accepts s → Accepts s' → s.data.cal = s'.data.cal →
    s.data.raw = s'.data.raw → exec .compT s = .next t → exec .compT s' = .next t' →
    t.fault = t'.fault ∧
      (t.fault = none → t.data.tfine = t'.data.tfine ∧ t.data.temp = t'.data.temp)) ∧
  ∀ s s' t t' : State, Accepts s → Accepts s' → s.data.cal = s'.data.cal →
    s.data.raw = s'.data.raw → s.data.tfine = s'.data.tfine →
    s.data.tfineFresh = s'.data.tfineFresh → exec .compP s = .next t → exec .compP s' = .next t' →
    t.fault = t'.fault ∧ (t.fault = none → t.data.pres = t'.data.pres)

/-! ## Every command (40_bus R156; 41_sensor R214) -/

/-- Every command ends, or raises a fault, whatever the bus agent does and however the agents
interleave, within `O(c)` observations and `2 × O(c) + 1` sequencer steps (R156, R214, 00_scope R7). What
counts as one step at a poll's end and a command's end is the model's reading of 10_state R39 (log 11,
DEDUCED). -/
def Obligations.EveryCommandEndsWithinBounds : Prop :=
  ∀ (i : Instr) (s : State), i.wf = true → Accepts s →
    ∃ t, exec i s = .next t ∧ (t.seq = .idle ∨ t.fault ≠ none) ∧
      t.tally.observations ≤ s.tally.observations + obsBound s.params i ∧
      t.tally.seqSteps ≤ s.tally.seqSteps + (2 * obsBound s.params i + 1)

/-- Only `READ_CAL` and `INIT` change the calibration registers (R203, R213). -/
def Obligations.CalibrationChangesOnlyByLoading : Prop :=
  ∀ (i : Instr) (s t : State), exec i s = .next t → t.data.cal ≠ s.data.cal →
    (i = .readCal ∨ i = .init) ∧ t.data.cal ≠ none ∧ t.data.tfineFresh = false

/-! ## Transport commands (40_bus) -/

/-- `START`, `STOP`, `WRITE` (its bytes set) and `PROBE` complete on any bus, and change no data register
and no byte of the buffers; `PROBE` leaves `OUTCOME`, the others leave `READY` (R150–R152, R154; 10_state
R58, R59). `START` and `STOP` return Success or Timeout. -/
def Obligations.TransportCommandsComplete : Prop :=
  ∀ (s : State) (i : Instr), Accepts s →
    (i = .start ∨ i = .stop ∨ (∃ a m, i = .probe a m) ∨
      ∃ a n, i = .write a n ∧ n.toNat ≤ 32 ∧ TxReady s n.toNat) →
    ∃ t, exec i s = .next t ∧ Sys2Proof.Claims.Ended i s t ∧
      t.data = s.data ∧ (∀ a, memGet t.mem a = memGet s.mem a) ∧ t.draws = s.draws ∧
      ((∃ a m, i = .probe a m) → t.outcome = s.outcome) ∧
      ((¬∃ a m, i = .probe a m) → t.ready = s.ready) ∧
      (i = .start ∨ i = .stop → t.outcome ≠ .addressNack)

/-- `READ` (R153) completes on any bus, stores into `RXBUF[0..n-1]` and nowhere else, and writes no other
register but `OUTCOME`; n = 0 returns Success with no `start()` and no observation; after a success with
n ≥ 1 all n bytes are set and `CR.ACK` is 0. -/
def Obligations.ReadCompletes : Prop :=
  ∀ (s : State) (a : Addr7) (n : BitVec 8), Accepts s → n.toNat ≤ 32 →
    ∃ t, exec (.read a n) s = .next t ∧ Sys2Proof.Claims.Ended (.read a n) s t ∧
      t.data = s.data ∧ t.ready = s.ready ∧ t.draws = s.draws ∧
      (∀ x, ¬(rxBase ≤ x ∧ x < rxBase + n.toNat) → memGet t.mem x = memGet s.mem x) ∧
      (n = 0 → t.outcome = .success ∧ t.tally.starts = s.tally.starts ∧
        t.tally.observations = s.tally.observations) ∧
      (n ≠ 0 → t.outcome = .success →
        t.bus.cr.ack = false ∧ ∀ j, j < n.toNat → (t.rxByte j).isSome = true)

/-- `WRITE` with an unset byte among its n raises `F_UNSET` with 0x40 + j for the lowest such j, before
any `start()` (R152 W0; 60 R266; 70 R296); the command stands at its entry with `BUSY` 1. -/
def Obligations.WriteUnsetFaults : Prop :=
  ∀ (s : State) (a : Addr7) (n : BitVec 8) (j : Nat), Accepts s → n.toNat ≤ 32 → j < n.toNat →
    s.txByte j = none → TxReady s j →
    ∃ t, exec (.write a n) s = .next t ∧
      t.fault = some { code := .unset, info := BitVec.ofNat 8 (0x40 + j) } ∧
      t.seq = .entry (.write a n) ∧ t.tally.starts = s.tally.starts ∧
      t.tally.observations = s.tally.observations ∧ t.data = s.data ∧ t.outcome = s.outcome ∧
      (∀ x, memGet t.mem x = memGet s.mem x)

/-- With the peripheral disabled every `start()` and `stop()` times out (70_reset R294): `START`, `STOP`,
`WRITE` and `READ` with n ≥ 1 return Timeout, a probe answers NotReady, and `INIT` aborts at I2, each
after its polls' whole budgets of observations (R143; 95 T16, S3), so `INIT` leaves the data registers
and the buffers. `SR1.SB` is 0 then in every reachable state (`Inv`). -/
def Obligations.DisabledBusTimesOut : Prop :=
  ∀ s : State, Accepts s → s.bus.cr.pe = false → s.bus.sr1.sb = false →
    (∀ e : BusEvent, e.enabled s.bus = false) ∧
    (∃ t, exec .start s = .next t ∧ Accepts t ∧ t.outcome = .timeout ∧ t.bus.cr.start = true ∧
      t.tally.observations = s.tally.observations + s.params.bStart) ∧
    (∃ t, exec .stop s = .next t ∧ Accepts t ∧ t.outcome = .timeout ∧ t.bus.cr.stop = true ∧
      t.tally.observations = s.tally.observations + s.params.bStop) ∧
    (∀ (a : Addr7) (n : BitVec 8), n.toNat ≤ 32 → TxReady s n.toNat →
      ∃ t, exec (.write a n) s = .next t ∧ Accepts t ∧ t.outcome = .timeout ∧
        t.bus.cr.start = true ∧ t.bus.cr.stop = true ∧
        t.tally.observations = s.tally.observations + (s.params.bStart + s.params.bStop)) ∧
    (∀ (a : Addr7) (n : BitVec 8), n ≠ 0 → n.toNat ≤ 32 →
      ∃ t, exec (.read a n) s = .next t ∧ Accepts t ∧ t.outcome = .timeout ∧
        t.bus.cr.start = true ∧ t.bus.cr.stop = true ∧
        t.tally.observations = s.tally.observations + (s.params.bStart + s.params.bStop)) ∧
    (∀ (a : Addr7) (m : BitVec 8), ∃ t, exec (.probe a m) s = .next t ∧ Accepts t ∧
      t.ready = false ∧ t.tally.observations = s.tally.observations + m.toNat * s.params.bStart) ∧
    (∃ t, exec .init s = .next t ∧ Accepts t ∧ t.ready = false ∧ t.data = s.data ∧
      t.tally.observations = s.tally.observations + s.params.readyAttempts.toNat * s.params.bStart ∧
      ∀ x, memGet t.mem x = memGet s.mem x)

/-- A `WRITE`, or a `READ` with n ≥ 1, that ends has requested a STOP: the request is still pending, or
a STOP is on the wire since the command began (R157). -/
def Obligations.TransferEndsWithStopRequested : Prop :=
  ∀ (s t : State) (i : Instr), Accepts s → Accepts t →
    (∃ a n, n.toNat ≤ 32 ∧ (i = .write a n ∨ (i = .read a n ∧ n ≠ 0))) → exec i s = .next t →
    t.bus.cr.stop = true ∨ ∃ l, t.wire = l ++ s.wire ∧ WireEvent.stop ∈ l

/-- A sticky `AF` (R159): a `WRITE` or a `READ` with n ≥ 1 issued while `AF` is 1 never succeeds,
whatever the device answers. -/
def Obligations.StickyAfFailsTransfers : Prop :=
  ∀ (s : State) (a : Addr7) (n : BitVec 8), Accepts s → s.bus.sr1.af = true → n.toNat ≤ 32 →
    (TxReady s n.toNat → ∃ t, exec (.write a n) s = .next t ∧ Accepts t ∧ t.outcome ≠ .success) ∧
    (n ≠ 0 → ∃ t, exec (.read a n) s = .next t ∧ Accepts t ∧ t.outcome ≠ .success)

/-- A probe calls `start()` at most m times on any bus, and not at all for m = 0, which answers NotReady
(R154, R160). -/
def Obligations.ProbeAttemptsBounded : Prop :=
  ∀ (s : State) (a : Addr7) (m : BitVec 8), Accepts s →
    ∃ t, exec (.probe a m) s = .next t ∧ Accepts t ∧
      t.tally.starts ≤ s.tally.starts + m.toNat ∧
      (t.ready = false → m ≠ 0 → t.tally.starts = s.tally.starts + m.toNat) ∧
      (m = 0 → t.ready = false ∧ t.tally.observations = s.tally.observations)

/-! ## The reference device (40_bus R148; 70_reset R316) -/

/-- Under the reference device and the eager schedule every poll succeeds at its first observation, so
the observations of a command are one per poll (R148, R316): the five transport commands to the
device's address succeed in exactly so many. -/
def Obligations.ReferenceStepCounts : Prop :=
  ∀ (s : State) (d : RefDevice), UnderReference d s →
    (∃ t, exec .start s = .next t ∧ Accepts t ∧ t.outcome = .success ∧
      t.tally.observations = s.tally.observations + 1 ∧ t.bus.sr1.sb = true ∧
      t.bus.phase = .awaitAddr) ∧
    (∃ t, exec .stop s = .next t ∧ Accepts t ∧ t.outcome = .success ∧
      t.tally.observations = s.tally.observations + 1 ∧ t.bus.phase = .idle) ∧
    (∀ n : BitVec 8, n.toNat ≤ 32 → TxReady s n.toNat →
      ∃ t, exec (.write Config.devAddr n) s = .next t ∧ Accepts t ∧ t.outcome = .success ∧
        t.tally.observations = s.tally.observations + (3 + n.toNat) ∧ t.bus.phase = .idle) ∧
    (∀ n : BitVec 8, n ≠ 0 → n.toNat ≤ 32 →
      ∃ t, exec (.read Config.devAddr n) s = .next t ∧ Accepts t ∧ t.outcome = .success ∧
        t.tally.observations = s.tally.observations + (2 + n.toNat) ∧ t.bus.phase = .idle) ∧
    (∃ t, exec (.read Config.devAddr 0) s = .next t ∧ Accepts t ∧ t.outcome = .success ∧
      t.tally.observations = s.tally.observations) ∧
    (∀ m : BitVec 8, m ≠ 0 →
      ∃ t, exec (.probe Config.devAddr m) s = .next t ∧ Accepts t ∧ t.ready = true ∧
        t.tally.observations = s.tally.observations + 3 ∧
        t.tally.starts = s.tally.starts + 1 ∧ t.bus.phase = .idle)

/-- A `READ` from the reference device delivers `DEVREG[PTR]`, `DEVREG[PTR + 1]`, … in that order and
moves `PTR` past them (R148, R89). -/
def Obligations.ReferenceReadDelivers : Prop :=
  ∀ (s : State) (d : RefDevice) (n : BitVec 8), UnderReference d s → n ≠ 0 → n.toNat ≤ 32 →
    ∃ t, exec (.read Config.devAddr n) s = .next t ∧ Accepts t ∧ t.outcome = .success ∧
      (∀ j, j < n.toNat → t.rxByte j = some (d.reg (d.ptr + BitVec.ofNat 8 j))) ∧
      ∃ d', t.busAgent = .reference d' ∧ d'.ptr = d.ptr + n ∧ d'.regs = d.regs

/-- `READ_CAL` from the reference device loads the twelve little-endian fields of its calibration block
(R202, 20_memory R91). -/
def Obligations.ReferenceReadCal : Prop :=
  ∀ (s : State) (d : RefDevice), UnderReference d s →
    ∃ t c, exec .readCal s = .next t ∧ Accepts t ∧ t.outcome = .success ∧
      t.data = { s.data with cal := some c, tfineFresh := false } ∧
      ∀ k, k < 12 → c.field k =
        d.reg (s.params.regCal + BitVec.ofNat 8 (2 * k + 1)) ++
          d.reg (s.params.regCal + BitVec.ofNat 8 (2 * k))

/-- `CONFIGURE` on the reference device leaves 0x27 in its measurement-control register and 0xA0 in its
configuration register (R204; 95 S6). -/
def Obligations.ReferenceConfigure : Prop :=
  ∀ (s : State) (d : RefDevice), UnderReference d s → s.params.regCtrlMeas ≠ s.params.regConfig →
    ∃ t d', exec .configure s = .next t ∧ Accepts t ∧ t.outcome = .success ∧ t.data = s.data ∧
      t.busAgent = .reference d' ∧ d'.reg s.params.regCtrlMeas = 0x27 ∧
      d'.reg s.params.regConfig = 0xA0

/-- `ACQUIRE` from the reference device with the calibration loaded computes `TEMP` and `PRES` from the
six bytes of its data block, pressure first (R244, 20_memory R92). -/
def Obligations.ReferenceAcquire : Prop :=
  ∀ (s : State) (d : RefDevice) (c : CalSet), UnderReference d s → s.data.cal = some c →
    ∃ t r, exec .acquire s = .next t ∧ Accepts t ∧ t.outcome = .success ∧
      (let b := fun j => (d.reg (s.params.regData + BitVec.ofNat 8 j)).toNat
       r.p.toNat = (b 0 * 65536 + b 1 * 256 + b 2) / 16 ∧
         r.t.toNat = (b 3 * 65536 + b 4 * 256 + b 5) / 16) ∧
      t.data = { s.data with
        raw := some r, tfine := some (Sys2Proof.Claims.temperatureOf c r).1,
        temp := some (Sys2Proof.Claims.temperatureOf c r).2, tfineFresh := true,
        pres := some (Sys2Proof.Claims.pressureOf c r (Sys2Proof.Claims.temperatureOf c r).1) }

/-- `INIT` on the reference device whose identity register holds 0x58, with at least one probe attempt,
runs its full path (R210): Ready, the identity recorded, the calibration loaded, the device configured. -/
def Obligations.ReferenceInit : Prop :=
  ∀ (s : State) (d : RefDevice), UnderReference d s → s.params.readyAttempts ≠ 0 →
    d.reg s.params.regId = 0x58 → s.params.regCtrlMeas ≠ s.params.regConfig →
    ∃ t d' c, exec .init s = .next t ∧ Accepts t ∧ t.ready = true ∧ t.outcome = .success ∧
      t.data = { s.data with cal := some c, tfineFresh := false, lastId := some 0x58 } ∧
      (∀ k, k < 12 → c.field k =
        d.reg (s.params.regCal + BitVec.ofNat 8 (2 * k + 1)) ++
          d.reg (s.params.regCal + BitVec.ofNat 8 (2 * k))) ∧
      t.busAgent = .reference d' ∧ d'.reg s.params.regCtrlMeas = 0x27 ∧
      d'.reg s.params.regConfig = 0xA0

/-- The reference device acknowledges its own address only (R148): a `WRITE`, or a `READ` with n ≥ 1, to
any other returns AddressNack after a start, the address and a stop, with `AF` cleared and no byte
moved, and a probe of it answers NotReady after all its attempts (R152, R153, R154, R157). -/
def Obligations.ReferenceOtherAddressNacks : Prop :=
  ∀ (s : State) (d : RefDevice) (a : Addr7), UnderReference d s → a ≠ Config.devAddr →
    (∀ n : BitVec 8, n.toNat ≤ 32 → TxReady s n.toNat →
      ∃ t, exec (.write a n) s = .next t ∧ Accepts t ∧ t.outcome = .addressNack ∧
        t.tally.observations = s.tally.observations + 3 ∧ t.bus.sr1.af = false ∧
        t.bus.phase = .idle ∧ t.wire = .stop :: .addr (a ++ 0#1) false :: .start :: s.wire) ∧
    (∀ n : BitVec 8, n ≠ 0 → n.toNat ≤ 32 →
      ∃ t, exec (.read a n) s = .next t ∧ Accepts t ∧ t.outcome = .addressNack ∧
        t.tally.observations = s.tally.observations + 3 ∧ t.bus.sr1.af = false ∧
        t.bus.phase = .idle ∧ t.wire = .stop :: .addr (a ++ 1#1) false :: .start :: s.wire ∧
        ∀ x, memGet t.mem x = memGet s.mem x) ∧
    ∀ m : BitVec 8, ∃ t, exec (.probe a m) s = .next t ∧ Accepts t ∧ t.ready = false ∧
      t.tally.starts = s.tally.starts + m.toNat ∧
      t.tally.observations = s.tally.observations + 3 * m.toNat ∧ t.bus.sr1.af = false ∧
      t.bus.phase = .idle

/-! ## Sensor commands on any bus (41_sensor, 42_compensation) -/

/-- `READ_CAL` (R202, R203): on success all twelve registers decode from `RXBUF[0..23]` and `TFINE_FRESH`
is 0; on a failure it is a no-op on the data registers. It writes `TXBUF[0]` and `RXBUF[0..23]` only. -/
def Obligations.ReadCalResult : Prop :=
  ∀ s : State, Accepts s → ∃ t, exec .readCal s = .next t ∧ Sys2Proof.Claims.Ended .readCal s t ∧
    t.ready = s.ready ∧ t.draws = s.draws ∧ t.txByte 0 = some s.params.regCal ∧
    (∀ x, x ≠ txBase → ¬(rxBase ≤ x ∧ x < rxBase + 24) → memGet t.mem x = memGet s.mem x) ∧
    (t.outcome = .success →
      (∀ j, j < 24 → (t.rxByte j).isSome = true) ∧
        ∃ c, t.data = { s.data with cal := some c, tfineFresh := false } ∧
          ∀ k lo hi, k < 12 → t.rxByte (2 * k) = some lo → t.rxByte (2 * k + 1) = some hi →
            (c.field k).toNat = lo.toNat + 256 * hi.toNat) ∧
    (t.outcome ≠ .success → t.data = s.data)

/-- `CONFIGURE` (R204): both register writes are attempted on any bus (two `start()` calls), `TXBUF[0..1]`
ends as the second write's, and no other register but `OUTCOME` and no other byte changes. -/
def Obligations.ConfigureResult : Prop :=
  ∀ s : State, Accepts s → ∃ t, exec .configure s = .next t ∧ Sys2Proof.Claims.Ended .configure s t ∧
    t.ready = s.ready ∧ t.draws = s.draws ∧ t.data = s.data ∧
    t.tally.starts = s.tally.starts + 2 ∧
    t.txByte 0 = some s.params.regConfig ∧ t.txByte 1 = some 0xA0 ∧
    (∀ x, x ≠ txBase → x ≠ txBase + 1 → memGet t.mem x = memGet s.mem x)

/-- `READ_RAW` (R206): on success the sample decodes from `RXBUF[0..5]`, pressure first; on a failure it
is two free values (log 3), so the statement says nothing of their value; `TFINE_FRESH` is 0 either way,
and no other data register changes. It writes `TXBUF[0]` and `RXBUF[0..5]` only. -/
def Obligations.ReadRawResult : Prop :=
  ∀ s : State, Accepts s → ∃ t r, exec .readRaw s = .next t ∧ Sys2Proof.Claims.Ended .readRaw s t ∧
    t.ready = s.ready ∧ t.txByte 0 = some s.params.regData ∧
    t.data = { s.data with raw := some r, tfineFresh := false } ∧
    (∀ x, x ≠ txBase → ¬(rxBase ≤ x ∧ x < rxBase + 6) → memGet t.mem x = memGet s.mem x) ∧
    Sys2Proof.Claims.SampleOf s t r

/-- `INIT` (R210–R212): it ends on any bus without a fault; not ready, it changes no data register, no
byte and not `OUTCOME`; ready, `LAST_ID` holds the compared byte. Any byte but 0x58 ends it there (I6),
the byte being `RXBUF[0]` of the identity read that succeeded, or one free value (log 3) when it failed;
0x58 goes on (I7, I8): the bytes of `CONFIGURE`'s last register write stand in `TXBUF`, at least the
`start()` calls of the probe, the pointer writes of I3 and C1, and G1 and G2 have been made, and the
calibration is as it was or the whole set `RXBUF[0..23]` holds. `RAW_*`, `TFINE`, `TEMP` and `PRES` never
change, and it writes `TXBUF[0..1]` and `RXBUF[0..23]` only. -/
def Obligations.InitResult : Prop :=
  ∀ s : State, Accepts s → ∃ t, exec .init s = .next t ∧ Sys2Proof.Claims.Ended .init s t ∧
    t.data.raw = s.data.raw ∧ t.data.tfine = s.data.tfine ∧ t.data.temp = s.data.temp ∧
    t.data.pres = s.data.pres ∧
    (t.draws = s.draws ∨
      t.draws = s.draws + 1 ∧ t.ready = true ∧ t.data.lastId = some (Config.draw 8 s.draws)) ∧
    (∀ x, x ≠ txBase → x ≠ txBase + 1 → ¬(rxBase ≤ x ∧ x < rxBase + 24) →
      memGet t.mem x = memGet s.mem x) ∧
    (t.ready = false → t.data = s.data ∧ t.outcome = s.outcome ∧
      ∀ x, memGet t.mem x = memGet s.mem x) ∧
    (t.ready = true → ∃ id, t.data.lastId = some id ∧
      (id ≠ 0x58 → t.data = { s.data with lastId := some id } ∧
        t.txByte 0 = some s.params.regId ∧
        (t.outcome = .success → t.draws = s.draws ∧ t.rxByte 0 = some id) ∧
        (t.outcome ≠ .success → t.draws = s.draws + 1 ∧ id = Config.draw 8 s.draws)) ∧
      (id = 0x58 → t.txByte 0 = some s.params.regConfig ∧ t.txByte 1 = some 0xA0 ∧
        t.tally.starts ≥ s.tally.starts + 5 ∧
        (t.data = { s.data with lastId := some id } ∨
          ∃ c, t.data = { s.data with lastId := some id, cal := some c, tfineFresh := false } ∧
            ∀ k, k < 12 → ∃ lo hi, t.rxByte (2 * k) = some lo ∧ t.rxByte (2 * k + 1) = some hi ∧
              (c.field k).toNat = lo.toNat + 256 * hi.toNat)))

/-- I3 to I9 of `INIT` step by step (R210, R211; the grouping into steps is log 11 and 13). The identity
read that ends stores the byte, the one received after a success and a free value (log 3) after a failure
of either half; 0x58 goes on to C1 of `READ_CAL`, any other byte ends the command. `READ_CAL`, loaded or
failed, goes on to G1 of `CONFIGURE`, G1 to G2 whatever it returned, and G2 ends the command. -/
def Obligations.InitGoesOnStepByStep : Prop :=
  ∀ s : State, s.fault = none →
    (∀ obs, s.seq = .polled .init .i3Burst (.rd11 0x77 1 0) (some obs) →
      (seqStep s).data = { s.data with lastId := some s.bus.dr } ∧
        (seqStep s).rxByte 0 = some s.bus.dr ∧ (seqStep s).outcome = .success ∧
        (seqStep s).draws = s.draws ∧
        (if s.bus.dr = 0x58 then Sys2Proof.Claims.InitWrites .c1Ptr 1 s.params.regCal (seqStep s)
          else (seqStep s).seq = .idle ∧ (seqStep s).fault = none)) ∧
    (∀ o res, o ≠ .success →
      (s.seq = .polled .init .i3Burst (.rdStop o) res ∨ s.seq = .polled .init .i3Ptr (.wStop o) res) →
      (seqStep s).data = { s.data with lastId := some (Config.draw 8 s.draws) } ∧
        (seqStep s).draws = s.draws + 1 ∧ (seqStep s).outcome = o ∧
        (if Config.draw 8 s.draws = 0x58 then
            Sys2Proof.Claims.InitWrites .c1Ptr 1 s.params.regCal (seqStep s)
          else (seqStep s).seq = .idle ∧ (seqStep s).fault = none)) ∧
    (∀ obs, s.seq = .polled .init .c1Burst (.rd11 0x77 24 23) (some obs) →
      (∃ c, (seqStep s).data = { s.data with cal := some c, tfineFresh := false }) ∧
        (seqStep s).outcome = .success ∧
        Sys2Proof.Claims.InitWrites .g1 2 s.params.regCtrlMeas (seqStep s) ∧
        (seqStep s).txByte 1 = some 0x27) ∧
    (∀ o res, o ≠ .success →
      (s.seq = .polled .init .c1Burst (.rdStop o) res ∨ s.seq = .polled .init .c1Ptr (.wStop o) res) →
      (seqStep s).data = s.data ∧ (seqStep s).outcome = o ∧
        Sys2Proof.Claims.InitWrites .g1 2 s.params.regCtrlMeas (seqStep s) ∧
        (seqStep s).txByte 1 = some 0x27) ∧
    (∀ o res, s.seq = .polled .init .g1 (.wStop o) res →
      (seqStep s).data = s.data ∧ (seqStep s).outcome = o ∧
        Sys2Proof.Claims.InitWrites .g2 2 s.params.regConfig (seqStep s) ∧
        (seqStep s).txByte 1 = some 0xA0) ∧
    (∀ o res, s.seq = .polled .init .g2 (.wStop o) res →
      (seqStep s).data = s.data ∧ (seqStep s).outcome = o ∧ (seqStep s).seq = .idle ∧
        (seqStep s).fault = none)

/-- `ACQUIRE` (R244): with the calibration set it ends on any bus without a fault, `TEMP`, `TFINE` and
`PRES` computed from the sample it stored, drawn or read; without it, it raises `F_UNSET` 0x01 at A2,
after `READ_RAW` has stored its sample. -/
def Obligations.AcquireResult : Prop :=
  ∀ s : State, Accepts s → ∃ t r, exec .acquire s = .next t ∧ t.ready = s.ready ∧
    t.ctrlEn = s.ctrlEn ∧ Sys2Proof.Claims.SampleOf s t r ∧
    (∀ x, x ≠ txBase → ¬(rxBase ≤ x ∧ x < rxBase + 6) → memGet t.mem x = memGet s.mem x) ∧
    (∀ c, s.data.cal = some c → Sys2Proof.Claims.Ended .acquire s t ∧
      t.data = { s.data with
        raw := some r, tfine := some (Sys2Proof.Claims.temperatureOf c r).1,
        temp := some (Sys2Proof.Claims.temperatureOf c r).2, tfineFresh := true,
        pres := some (Sys2Proof.Claims.pressureOf c r (Sys2Proof.Claims.temperatureOf c r).1) }) ∧
    (s.data.cal = none → t.fault = some { code := .unset, info := 0x01 } ∧ t.busy = true ∧
      t.data = { s.data with raw := some r, tfineFresh := false })

/-! ## The peripheral (10_state, 40_bus) -/

/-- `AF` is sticky (10_state R47): `ClearAF` clears it, and no event and no other primitive does. -/
def Obligations.OnlyClearAfClearsAf : Prop :=
  (∀ p : Periph, p.clearAF = { p with sr1 := { p.sr1 with af := false } }) ∧
  ∀ p : Periph, p.sr1.af = true →
    (∀ e : BusEvent, (e.effect p).sr1.af = true) ∧ (∀ b, (p.writeDR b).sr1.af = true) ∧
      p.readDR.sr1.af = true ∧ p.clearStatus.sr1.af = true ∧
      (∀ v, (p.setStart v).sr1.af = true ∧ (p.setStop v).sr1.af = true ∧
        (p.setAck v).sr1.af = true) ∧
      p.observe.sr1.af = true

/-- `ReadDR` (10_state R45): it clears `RXNE` and nothing else, and the byte it returns, which a read
stores, is `DR`. -/
def Obligations.ReadDataRegister : Prop :=
  (∀ p : Periph, p.readDR = { p with sr1 := { p.sr1 with rxne := false } }) ∧
  ∀ (s : State) (n i : Nat), i < 32 →
    (takeByte n i s).rxByte i = some s.bus.dr ∧ (takeByte n i s).bus.dr = s.bus.dr ∧
      (takeByte n i s).bus.sr1 = { s.bus.sr1 with rxne := false }

/-- `ClearStatus` (10_state R46): it clears `ADDR`, starts reception in `RX_HOLD`, and changes nothing
else. -/
def Obligations.ClearStatusStartsReception : Prop :=
  ∀ p : Periph,
    (p.phase = .rxHold →
      p.clearStatus = { p with sr1 := { p.sr1 with addr := false }, phase := .rxActive }) ∧
    (p.phase ≠ .rxHold → p.clearStatus = { p with sr1 := { p.sr1 with addr := false } })

/-- When an event of the bus agent is enabled: the second column of 40_bus R146's table, with `CR.PE = 1`
(R145); and an event that is not enabled does nothing. -/
def Obligations.EventsEnabled : Prop :=
  ∀ s : State,
    (BusEvent.start.enabled s.bus = true ↔
      s.bus.cr.pe = true ∧ s.bus.cr.start = true ∧ s.bus.cr.stop = false ∧
        s.bus.phase ∈ [Phase.idle, .awaitAddr, .txReady, .rxEnded, .nacked]) ∧
    (BusEvent.addrAck.enabled s.bus = true ↔ s.bus.cr.pe = true ∧ s.bus.phase = .addrSent) ∧
    (BusEvent.addrNack.enabled s.bus = true ↔ s.bus.cr.pe = true ∧ s.bus.phase = .addrSent) ∧
    (BusEvent.txAck.enabled s.bus = true ↔ s.bus.cr.pe = true ∧ s.bus.phase = .txByte) ∧
    (BusEvent.txNack.enabled s.bus = true ↔ s.bus.cr.pe = true ∧ s.bus.phase = .txByte) ∧
    (∀ b, (BusEvent.rx b).enabled s.bus = true ↔
      s.bus.cr.pe = true ∧ s.bus.phase = .rxActive ∧ s.bus.sr1.rxne = false) ∧
    (BusEvent.stop.enabled s.bus = true ↔
      s.bus.cr.pe = true ∧ s.bus.cr.stop = true ∧
        s.bus.phase ∈ [Phase.idle, .awaitAddr, .txReady, .rxHold, .rxEnded, .nacked]) ∧
    ∀ e : BusEvent, e.enabled s.bus = false → takeEvent e s = s

/-- What an enabled event does to the peripheral: the third column of 40_bus R146's table; it changes
nothing else but the record of the wire (log 16). -/
def Obligations.EventEffects : Prop :=
  ∀ s : State,
    (∀ e : BusEvent, takeEvent e s = (s.setBus (takeEvent e s).bus).setWire (takeEvent e s).wire) ∧
    (BusEvent.start.enabled s.bus = true → (takeEvent .start s).bus =
      { s.bus with
        sr1 := { s.bus.sr1 with sb := true }, cr := { s.bus.cr with start := false },
        sr2 := { s.bus.sr2 with msl := true, busy := true }, phase := .awaitAddr }) ∧
    (BusEvent.addrAck.enabled s.bus = true → s.bus.engRw = false → (takeEvent .addrAck s).bus =
      { s.bus with
        sr1 := { s.bus.sr1 with addr := true, txe := true }, sr2 := { s.bus.sr2 with tra := true },
        phase := .txReady }) ∧
    (BusEvent.addrAck.enabled s.bus = true → s.bus.engRw = true → (takeEvent .addrAck s).bus =
      { s.bus with
        sr1 := { s.bus.sr1 with addr := true }, sr2 := { s.bus.sr2 with tra := false },
        phase := .rxHold }) ∧
    (∀ e, e = BusEvent.addrNack ∨ e = .txNack → e.enabled s.bus = true → (takeEvent e s).bus =
      { s.bus with sr1 := { s.bus.sr1 with af := true }, phase := .nacked }) ∧
    (BusEvent.txAck.enabled s.bus = true → (takeEvent .txAck s).bus =
      { s.bus with sr1 := { s.bus.sr1 with btf := true, txe := true }, phase := .txReady }) ∧
    (∀ b, (BusEvent.rx b).enabled s.bus = true →
      (takeEvent (.rx b) s).wire = .rx b s.bus.cr.ack :: s.wire ∧
        (takeEvent (.rx b) s).bus =
          { s.bus with
            dr := b, sr1 := { s.bus.sr1 with rxne := true },
            phase := if s.bus.cr.ack = true then .rxActive else .rxEnded }) ∧
    (BusEvent.stop.enabled s.bus = true → (takeEvent .stop s).bus =
      { s.bus with
        cr := { s.bus.cr with stop := false }, sr1 := { s.bus.sr1 with sb := false },
        sr2 := { msl := false, busy := false, tra := false }, phase := .idle })

/-- `WriteDR` (10_state R44): the byte always lands in `DR`; in `AWAIT_ADDR` with `SB` it is taken as the
address byte, in `TX_READY` without `ADDR` as a data byte, and anywhere else it goes no further. -/
def Obligations.WriteDataRegister : Prop :=
  ∀ (p : Periph) (b : Byte), (p.writeDR b).dr = b ∧ (p.writeDR b).cr = p.cr ∧
    (p.writeDR b).sr2 = p.sr2 ∧
    (p.phase = .awaitAddr → p.sr1.sb = true →
      (p.writeDR b).phase = .addrSent ∧ (p.writeDR b).sr1 = { p.sr1 with sb := false } ∧
        addrByte (p.writeDR b).engTarget (p.writeDR b).engRw = b) ∧
    (p.phase = .txReady → p.sr1.addr = false →
      (p.writeDR b).phase = .txByte ∧
        (p.writeDR b).sr1 = { p.sr1 with btf := false, txe := false } ∧
        (p.writeDR b).engTarget = p.engTarget ∧ (p.writeDR b).engRw = p.engRw) ∧
    (¬(p.phase = .awaitAddr ∧ p.sr1.sb = true) → ¬(p.phase = .txReady ∧ p.sr1.addr = false) →
      p.writeDR b = { p with dr := b })

/-- A host write of `CTRL` (R33): on an idle core it copies bit 0 into `CTRL.EN` and `CR.PE`, ignores and
reads as 0 the other bits, and when it takes `CR.PE` from 1 to 0 resets the engine in the same step
(40_bus R146), changing nothing else; while a command runs it raises `F_BUSY` 1. -/
def Obligations.CtrlWriteEnablesOrResets : Prop :=
  (∀ (s : State) (v : Word), Accepts s →
    ∃ t, hostWrite 4 0x08 v s = t ∧ t = (s.setCtrlEn (v.getLsbD 0)).setBus t.bus ∧
      hostReadWord 4 0x08 t = v &&& 1 ∧
      t.bus.cr.pe = v.getLsbD 0 ∧ t.bus.dr = s.bus.dr ∧ t.bus.engRw = s.bus.engRw ∧
      t.bus.engTarget = s.bus.engTarget ∧
      (s.bus.cr.pe = true → v.getLsbD 0 = false →
        t.bus.cr.start = false ∧ t.bus.cr.stop = false ∧ t.bus.cr.ack = false ∧
          t.bus.sr1.word = 0 ∧ t.bus.sr2.word = 0 ∧ t.bus.phase = .idle) ∧
      (¬(s.bus.cr.pe = true ∧ v.getLsbD 0 = false) →
        t.bus.cr = { s.bus.cr with pe := v.getLsbD 0 } ∧ t.bus.sr1 = s.bus.sr1 ∧
          t.bus.sr2 = s.bus.sr2 ∧ t.bus.phase = s.bus.phase)) ∧
  ∀ (s : State) (v : Word), s.busy = true → s.fault = none →
    hostWrite 4 0x08 v s = s.setFault (some { code := .busy, info := 0x01 })

/-! ## The host window (20_memory, 60_exceptions) -/

/-- `STATUS` (10_state R32), field by field; its reserved bits read 0. -/
def Obligations.StatusFields : Prop :=
  ∀ s : State,
    s.statusWord.getLsbD 0 = s.busy ∧
    s.statusWord.extractLsb' 1 2 =
      (match s.outcome with
        | .success => 0#2
        | .addressNack => 1#2
        | .timeout => 2#2) ∧
    s.statusWord.getLsbD 3 = s.ready ∧ s.statusWord.getLsbD 4 = s.data.cal.isSome ∧
    s.statusWord.getLsbD 5 = s.data.raw.isSome ∧ s.statusWord.getLsbD 6 = s.data.tfineFresh ∧
    s.statusWord.getLsbD 7 = s.faulted ∧ s.statusWord.extractLsb' 8 24 = 0

/-- `raise Fault(code, info)` (60_exceptions R263, 10_state R34): `FAULT` reads `INFO` in bits 15:8 and
`CODE` in bits 7:0, the code being R262's number of the fault, `FAULTED` is 1, and `BUSY`, `SEQ` and
everything else keep their values. -/
def Obligations.RaiseRecordsFault : Prop :=
  ∀ (info : Byte) (s : State),
    (∀ code : FaultCode, (raiseFault code info s).faulted = true ∧
      raiseFault code info s = s.setFault (raiseFault code info s).fault ∧
      (raiseFault code info s).busy = s.busy) ∧
    (raiseFault .illegal info s).faultWord.toNat = info.toNat * 256 + 0x01 ∧
    (raiseFault .busy info s).faultWord.toNat = info.toNat * 256 + 0x02 ∧
    (raiseFault .unset info s).faultWord.toNat = info.toNat * 256 + 0x03 ∧
    (raiseFault .tfineStale info s).faultWord.toNat = info.toNat * 256 + 0x04 ∧
    (raiseFault .badAccess info s).faultWord.toNat = info.toNat * 256 + 0x05 ∧
    (s.fault = none → s.faultWord = 0)

/-- A host access of another width, misaligned or unmapped raises `F_BAD_ACCESS` with the offset's bits
7:0, and has no other effect; a read returns a draw (20_memory R82; 60 R268). -/
def Obligations.BadAccessFaults : Prop :=
  ∀ (s : State) (width : Nat) (off v : Word), s.fault = none →
    (width ≠ 4 ∨ ¬MappedOffset off.toNat) →
    hostWrite width off v s =
        s.setFault (some { code := .badAccess, info := BitVec.ofNat 8 off.toNat }) ∧
      (hostRead width off s).setDraws s.draws =
        s.setFault (some { code := .badAccess, info := BitVec.ofNat 8 off.toNat }) ∧
      hostReadWord width off s = Config.draw 32 s.draws

/-- A host write to a read-only register has no effect and raises no fault, at any time; reserved bits
read 0 and ignore writes (20_memory R83). -/
def Obligations.ReadOnlyWritesIgnored : Prop :=
  ∀ (s : State) (v : Word),
    (∀ off : Word, MappedOffset off.toNat → off.toNat ≠ 0x00 → off.toNat ≠ 0x08 →
      ¬(0x80 ≤ off.toNat ∧ off.toNat < 0xA0) → hostWrite 4 off v s = s) ∧
    hostWrite 4 0x08 v s = hostWrite 4 0x08 (v &&& 1) s ∧
    (hostReadWord 4 0x04 s).toNat < 2 ^ 8 ∧ (hostReadWord 4 0x08 s).toNat < 2 ∧
    (hostReadWord 4 0x0C s).toNat < 2 ^ 16 ∧ (hostReadWord 4 0x1C s).toNat < 2 ^ 20 ∧
    (hostReadWord 4 0x20 s).toNat < 2 ^ 20 ∧ (hostReadWord 4 0x24 s).toNat < 2 ^ 8 ∧
    ∀ k, k < 12 → (hostReadWord 4 (BitVec.ofNat 32 (0x40 + 4 * k)) s).toNat < 2 ^ 16

/-- A host write of `CMD`, `CTRL` or a `TXBUF` word while a command runs raises `F_BUSY` with 0, 1 or 2 and
changes nothing else; the running command then stops, and a read of a mapped register raises nothing
(60 R267). -/
def Obligations.BusyWritesFault : Prop :=
  ∀ (s : State) (v off : Word), s.busy = true → s.fault = none →
    hostWrite 4 0x00 v s = s.setFault (some { code := .busy, info := 0x00 }) ∧
    hostWrite 4 0x08 v s = s.setFault (some { code := .busy, info := 0x01 }) ∧
    (0x80 ≤ off.toNat → off.toNat < 0xA0 → off.toNat % 4 = 0 →
      hostWrite 4 off v s = s.setFault (some { code := .busy, info := 0x02 })) ∧
    (∀ f : FaultRecord, sequencerTurn (s.setFault (some f)) = s.setFault (some f)) ∧
    (MappedOffset off.toNat → (hostRead 4 off s).fault = none) ∧
    ∀ i : Instr, exec i s = .next (s.setFault (some { code := .busy, info := 0x00 }))

/-- A host write of `TXBUF` word w on an idle core sets its four bytes, byte 4w the word's bits 7:0, and no
other byte; the word then reads back (10_state R35, 20_memory R93). -/
def Obligations.TxWordWrite : Prop :=
  ∀ (s : State) (w : Nat) (v : Word), Accepts s → w < 8 →
    ∃ t, hostWrite 4 (BitVec.ofNat 32 (0x80 + 4 * w)) v s = t ∧ t = s.setMem t.mem ∧
      (∀ k, k < 4 → t.txByte (4 * w + k) = some (v.extractLsb' (8 * k) 8)) ∧
      (∀ x, ¬(0x80 + 4 * w ≤ x ∧ x < 0x80 + 4 * w + 4) → memGet t.mem x = memGet s.mem x) ∧
      hostReadWord 4 (BitVec.ofNat 32 (0x80 + 4 * w)) t = v

/-- No host read of a mapped register has a side effect on the core; a read at each offset returns the
register the window map names there, and where it holds no unset bit the read changes nothing at all, so
a second one returns the same (20_memory R81, R84, 10_state R54). -/
def Obligations.HostReadsHaveNoEffect : Prop :=
  ∀ (s : State) (off : Word), MappedOffset off.toNat →
    Sys2Proof.Claims.SameCore s (hostRead 4 off s) ∧
    ∀ v, Sys2Proof.Claims.windowWord s off.toNat = some v →
      hostRead 4 off s = s ∧ hostReadWord 4 off s = v

/-- A host read of a word with unset bits (10_state R54): an unset register, or a buffer word with an
unset byte, reads some value of the register's width with no fault, each set byte of a buffer word as
itself, and the next such read draws anew. -/
def Obligations.UnsetBitsReadAsDraws : Prop :=
  ∀ (s : State) (off : Word), MappedOffset off.toNat →
    Sys2Proof.Claims.windowWord s off.toNat = none →
    (hostRead 4 off s).fault = s.fault ∧ (hostRead 4 off s).draws = s.draws + 1 ∧
    (off.toNat < 0x1C → hostReadWord 4 off s = Config.draw 32 s.draws) ∧
    (0x1C ≤ off.toNat → off.toNat < 0x24 →
      hostReadWord 4 off s = ((Config.draw 32 s.draws).extractLsb' 0 20).setWidth 32) ∧
    (off.toNat = 0x24 →
      hostReadWord 4 off s = ((Config.draw 32 s.draws).extractLsb' 0 8).setWidth 32) ∧
    (0x40 ≤ off.toNat → off.toNat < 0x70 →
      hostReadWord 4 off s = ((Config.draw 32 s.draws).extractLsb' 0 16).setWidth 32) ∧
    (0x80 ≤ off.toNat → ∀ k, k < 4 → (hostReadWord 4 off s).extractLsb' (8 * k) 8 =
      (memGet s.mem (off.toNat + k)).getD ((Config.draw 32 s.draws).extractLsb' (8 * k) 8))

/-- Once a fault is recorded, no command starts, no host write, sequencer step or bus event does anything,
a mapped register still reads as its value and anything else as a draw, and a step of the machine that
is no reset leaves the core as it is, the fault included (60 R265). -/
def Obligations.FaultedCoreIsQuiescent : Prop :=
  ∀ s : State, s.fault ≠ none →
    (∀ i, exec i s = .next s) ∧ (∀ width off v, hostWrite width off v s = s) ∧
    sequencerTurn s = s ∧ (∀ e, busTurn e s = s) ∧
    (∀ width off, Sys2Proof.Claims.SameCore s (hostRead width off s)) ∧
    (∀ off : Word, MappedOffset off.toNat →
      ∃ g, regAt off.toNat = some g ∧ hostReadWord 4 off s = g.value s (Config.draw 32 s.draws)) ∧
    (∀ (width : Nat) (off : Word), (width ≠ 4 ∨ ¬MappedOffset off.toNat) →
      hostReadWord width off s = Config.draw 32 s.draws) ∧
    ∀ t, s.agenda.head? ≠ some .reset → step s = .next t → Sys2Proof.Claims.SameCore s t

/-! ## Reset (70_reset R291; 10_state R63) -/

/-- The reset values of R63. -/
def Obligations.ResetValues : Prop :=
  State.reset.cmd = 0 ∧ State.reset.statusWord = 0 ∧ State.reset.ctrlWord = 0 ∧
    State.reset.faultWord = 0 ∧ State.reset.seq = .idle ∧ State.reset.outcome = .success ∧
    (∀ j, State.reset.txByte j = none ∧ State.reset.rxByte j = none) ∧
    State.reset.bus.cr.word = 0 ∧ State.reset.bus.sr1.word = 0 ∧ State.reset.bus.sr2.word = 0 ∧
    State.reset.bus.dr = 0 ∧ State.reset.bus.phase = .idle ∧ State.reset.bus.engRw = false ∧
    State.reset.bus.engTarget = 0 ∧ State.reset.data.cal = none ∧ State.reset.data.raw = none ∧
    State.reset.data.tfine = none ∧ State.reset.data.temp = none ∧ State.reset.data.pres = none ∧
    State.reset.data.lastId = none

/-- A power-on reset at any moment, a faulted core's too, leaves every piece of the core's state at its
reset value in one step, with no draws, and does not reach the remote device; no other step leaves the
faulted state (R291). -/
def Obligations.PowerResetRestores : Prop :=
  (∀ s t : State, s.fault ≠ none → s.agenda.head? ≠ some .reset → step s = .next t →
    t.fault = s.fault) ∧
  ∀ (s : State) (rest : List Turn), s.agenda = .reset :: rest →
    ∃ t, step s = .next t ∧
      Sys2Proof.Claims.SameCore State.reset { t with params := State.reset.params } ∧
      t.params = s.params ∧ t.busAgent = s.busAgent ∧ t.draws = s.draws

/-! ## The step -/

/-- When it is the host's turn and it is at the beginning of a line that issues a word that decodes to
`i`, the step is `exec i`, after which the host stands at its next line if `BUSY` reads 0 and at the
line's `WAIT` otherwise (30_encoding R120): with a turn of its own on the agenda, or with an empty agenda
and no command in progress or a fault recorded (log 1, 2). -/
def Obligations.StepRunsIssuedCommand : Prop :=
  ∀ (s : State) (w : Word) (i : Instr) (rest : List Turn),
    s.host.prog[s.host.pc]? = some (.issue w) → s.host.waiting = false → decode w = .ok i →
    ((s.agenda = .host :: rest) ∨
      (s.agenda = [] ∧ rest = [] ∧ (s.busy = false ∨ s.faulted = true))) →
    step s = (match exec i (s.setAgenda rest) with
      | .next t => .next (t.setHost
          (if t.busy then { t.host with waiting := true }
            else { t.host with pc := t.host.pc + 1, waiting := false }))
      | .fault f => .fault f
      | .refused r => .refused r)

/-- At the `WAIT` of an `ISSUE` line the host writes `CMD` no second time (30_encoding R120): its turn
changes nothing while `BUSY` reads 1, and takes it to the next line once `BUSY` reads 0, as after a reset
of a core that a fault stopped in the command (70_reset R291; log 2). -/
def Obligations.IssueWaitsWithoutWriting : Prop :=
  ∀ (s : State) (w : Word) (rest : List Turn),
    s.host.prog[s.host.pc]? = some (.issue w) → s.host.waiting = true →
    (s.agenda = .host :: rest → step s = .next (if s.busy then s.setAgenda rest
      else (s.setAgenda rest).setHost { s.host with pc := s.host.pc + 1, waiting := false })) ∧
    (s.agenda = [.reset] → ∃ t u, step s = .next t ∧ step t = .next u ∧
      u.cmd = State.reset.cmd ∧ u.seq = .idle ∧ u.fault = none ∧ u.host.pc = s.host.pc + 1 ∧
      u.host.prog = s.host.prog ∧ u.host.waiting = false)

/-- `ISSUE c` is the write of `CMD` followed by the wait (R120): from an idle core with nothing on the
agenda, the lines `HW 0x00, enc(c)` and `WAIT` reach, in single turns of the agents, the state the
one-step `ISSUE` reaches, the host at its `WAIT` (that `ISSUE` is one step is the model's choice, log 2). -/
def Obligations.IssueIsWriteThenWait : Prop :=
  ∀ (s : State) (i : Instr), Accepts s → i.wf = true → s.agenda = [] →
    s.host.prog[s.host.pc]? = some (.write 4 0x00 (.lit (encode i))) →
    s.host.prog[s.host.pc + 1]? = some .wait →
    ∃ (k : Nat) (t : State), exec i s = .next t ∧
      Sys2Proof.core.run k s =
        .next (t.setHost { t.host with pc := t.host.pc + 1, waiting := false })

/-- What every reachable state looks like is kept by every step, from every state: the buffers stay in
canonical form, `CR.PE` follows `CTRL.EN`, the engine's flags agree with its phase, `TFINE_FRESH` means
what it says, the sequencer stands at a program point of its command, and the reference device's
registers and the host's variables stay in canonical form. -/
def Obligations.StepKeepsInv : Prop :=
  ∀ s t : State, Inv s → step s = .next t → Inv t

/-- The invariant holds after reset. -/
def Obligations.ResetInv : Prop := Inv State.reset

/-- The acknowledge rule of a read (R158) is kept by every step: while byte i of n is awaited `CR.ACK` is 1
exactly when i is not the last byte; so the byte arriving then is ACKed exactly when it is not the
last. -/
def Obligations.LastByteIsNacked : Prop :=
  (∀ s t : State, s.seq.legal s.params → s.seq.ackRule s.bus.cr.ack → step s = .next t →
    t.seq.ackRule t.bus.cr.ack) ∧
  ∀ (s : State) (c : Instr) (r : Ret) (a : Addr7) (n i j : Nat) (b : Byte),
    s.seq = .poll c r (.rd11 a n i) j → s.seq.ackRule s.bus.cr.ack →
    (BusEvent.rx b).enabled s.bus = true →
    (takeEvent (.rx b) s).wire = .rx b (decide (i + 1 < n)) :: s.wire
end

