-- ==== Sys2Proof/Laws/State.lean ====
section
/-! SUPPORT. One lemma per field per update of the state, so that no proof unfolds a record update. -/

namespace Sys2Proof.Machine

section setCmd
variable (s : State) (v : Word)
@[simp] theorem setCmd_cmd : (s.setCmd v).cmd = v := rfl
@[simp] theorem setCmd_outcome : (s.setCmd v).outcome = s.outcome := rfl
@[simp] theorem setCmd_ready : (s.setCmd v).ready = s.ready := rfl
@[simp] theorem setCmd_ctrlEn : (s.setCmd v).ctrlEn = s.ctrlEn := rfl
@[simp] theorem setCmd_fault : (s.setCmd v).fault = s.fault := rfl
@[simp] theorem setCmd_mem : (s.setCmd v).mem = s.mem := rfl
@[simp] theorem setCmd_seq : (s.setCmd v).seq = s.seq := rfl
@[simp] theorem setCmd_bus : (s.setCmd v).bus = s.bus := rfl
@[simp] theorem setCmd_data : (s.setCmd v).data = s.data := rfl
@[simp] theorem setCmd_params : (s.setCmd v).params = s.params := rfl
@[simp] theorem setCmd_draws : (s.setCmd v).draws = s.draws := rfl
@[simp] theorem setCmd_tally : (s.setCmd v).tally = s.tally := rfl
@[simp] theorem setCmd_wire : (s.setCmd v).wire = s.wire := rfl
@[simp] theorem setCmd_agenda : (s.setCmd v).agenda = s.agenda := rfl
@[simp] theorem setCmd_host : (s.setCmd v).host = s.host := rfl
@[simp] theorem setCmd_busAgent : (s.setCmd v).busAgent = s.busAgent := rfl
end setCmd

section setOutcome
variable (s : State) (v : TxOutcome)
@[simp] theorem setOutcome_cmd : (s.setOutcome v).cmd = s.cmd := rfl
@[simp] theorem setOutcome_outcome : (s.setOutcome v).outcome = v := rfl
@[simp] theorem setOutcome_ready : (s.setOutcome v).ready = s.ready := rfl
@[simp] theorem setOutcome_ctrlEn : (s.setOutcome v).ctrlEn = s.ctrlEn := rfl
@[simp] theorem setOutcome_fault : (s.setOutcome v).fault = s.fault := rfl
@[simp] theorem setOutcome_mem : (s.setOutcome v).mem = s.mem := rfl
@[simp] theorem setOutcome_seq : (s.setOutcome v).seq = s.seq := rfl
@[simp] theorem setOutcome_bus : (s.setOutcome v).bus = s.bus := rfl
@[simp] theorem setOutcome_data : (s.setOutcome v).data = s.data := rfl
@[simp] theorem setOutcome_params : (s.setOutcome v).params = s.params := rfl
@[simp] theorem setOutcome_draws : (s.setOutcome v).draws = s.draws := rfl
@[simp] theorem setOutcome_tally : (s.setOutcome v).tally = s.tally := rfl
@[simp] theorem setOutcome_wire : (s.setOutcome v).wire = s.wire := rfl
@[simp] theorem setOutcome_agenda : (s.setOutcome v).agenda = s.agenda := rfl
@[simp] theorem setOutcome_host : (s.setOutcome v).host = s.host := rfl
@[simp] theorem setOutcome_busAgent : (s.setOutcome v).busAgent = s.busAgent := rfl
end setOutcome

section setReady
variable (s : State) (v : Bool)
@[simp] theorem setReady_cmd : (s.setReady v).cmd = s.cmd := rfl
@[simp] theorem setReady_outcome : (s.setReady v).outcome = s.outcome := rfl
@[simp] theorem setReady_ready : (s.setReady v).ready = v := rfl
@[simp] theorem setReady_ctrlEn : (s.setReady v).ctrlEn = s.ctrlEn := rfl
@[simp] theorem setReady_fault : (s.setReady v).fault = s.fault := rfl
@[simp] theorem setReady_mem : (s.setReady v).mem = s.mem := rfl
@[simp] theorem setReady_seq : (s.setReady v).seq = s.seq := rfl
@[simp] theorem setReady_bus : (s.setReady v).bus = s.bus := rfl
@[simp] theorem setReady_data : (s.setReady v).data = s.data := rfl
@[simp] theorem setReady_params : (s.setReady v).params = s.params := rfl
@[simp] theorem setReady_draws : (s.setReady v).draws = s.draws := rfl
@[simp] theorem setReady_tally : (s.setReady v).tally = s.tally := rfl
@[simp] theorem setReady_wire : (s.setReady v).wire = s.wire := rfl
@[simp] theorem setReady_agenda : (s.setReady v).agenda = s.agenda := rfl
@[simp] theorem setReady_host : (s.setReady v).host = s.host := rfl
@[simp] theorem setReady_busAgent : (s.setReady v).busAgent = s.busAgent := rfl
end setReady

section setCtrlEn
variable (s : State) (v : Bool)
@[simp] theorem setCtrlEn_cmd : (s.setCtrlEn v).cmd = s.cmd := rfl
@[simp] theorem setCtrlEn_outcome : (s.setCtrlEn v).outcome = s.outcome := rfl
@[simp] theorem setCtrlEn_ready : (s.setCtrlEn v).ready = s.ready := rfl
@[simp] theorem setCtrlEn_ctrlEn : (s.setCtrlEn v).ctrlEn = v := rfl
@[simp] theorem setCtrlEn_fault : (s.setCtrlEn v).fault = s.fault := rfl
@[simp] theorem setCtrlEn_mem : (s.setCtrlEn v).mem = s.mem := rfl
@[simp] theorem setCtrlEn_seq : (s.setCtrlEn v).seq = s.seq := rfl
@[simp] theorem setCtrlEn_bus : (s.setCtrlEn v).bus = s.bus := rfl
@[simp] theorem setCtrlEn_data : (s.setCtrlEn v).data = s.data := rfl
@[simp] theorem setCtrlEn_params : (s.setCtrlEn v).params = s.params := rfl
@[simp] theorem setCtrlEn_draws : (s.setCtrlEn v).draws = s.draws := rfl
@[simp] theorem setCtrlEn_tally : (s.setCtrlEn v).tally = s.tally := rfl
@[simp] theorem setCtrlEn_wire : (s.setCtrlEn v).wire = s.wire := rfl
@[simp] theorem setCtrlEn_agenda : (s.setCtrlEn v).agenda = s.agenda := rfl
@[simp] theorem setCtrlEn_host : (s.setCtrlEn v).host = s.host := rfl
@[simp] theorem setCtrlEn_busAgent : (s.setCtrlEn v).busAgent = s.busAgent := rfl
end setCtrlEn

section setFault
variable (s : State) (v : Option FaultRecord)
@[simp] theorem setFault_cmd : (s.setFault v).cmd = s.cmd := rfl
@[simp] theorem setFault_outcome : (s.setFault v).outcome = s.outcome := rfl
@[simp] theorem setFault_ready : (s.setFault v).ready = s.ready := rfl
@[simp] theorem setFault_ctrlEn : (s.setFault v).ctrlEn = s.ctrlEn := rfl
@[simp] theorem setFault_fault : (s.setFault v).fault = v := rfl
@[simp] theorem setFault_mem : (s.setFault v).mem = s.mem := rfl
@[simp] theorem setFault_seq : (s.setFault v).seq = s.seq := rfl
@[simp] theorem setFault_bus : (s.setFault v).bus = s.bus := rfl
@[simp] theorem setFault_data : (s.setFault v).data = s.data := rfl
@[simp] theorem setFault_params : (s.setFault v).params = s.params := rfl
@[simp] theorem setFault_draws : (s.setFault v).draws = s.draws := rfl
@[simp] theorem setFault_tally : (s.setFault v).tally = s.tally := rfl
@[simp] theorem setFault_wire : (s.setFault v).wire = s.wire := rfl
@[simp] theorem setFault_agenda : (s.setFault v).agenda = s.agenda := rfl
@[simp] theorem setFault_host : (s.setFault v).host = s.host := rfl
@[simp] theorem setFault_busAgent : (s.setFault v).busAgent = s.busAgent := rfl
end setFault

section setMem
variable (s : State) (v : Memory)
@[simp] theorem setMem_cmd : (s.setMem v).cmd = s.cmd := rfl
@[simp] theorem setMem_outcome : (s.setMem v).outcome = s.outcome := rfl
@[simp] theorem setMem_ready : (s.setMem v).ready = s.ready := rfl
@[simp] theorem setMem_ctrlEn : (s.setMem v).ctrlEn = s.ctrlEn := rfl
@[simp] theorem setMem_fault : (s.setMem v).fault = s.fault := rfl
@[simp] theorem setMem_mem : (s.setMem v).mem = v := rfl
@[simp] theorem setMem_seq : (s.setMem v).seq = s.seq := rfl
@[simp] theorem setMem_bus : (s.setMem v).bus = s.bus := rfl
@[simp] theorem setMem_data : (s.setMem v).data = s.data := rfl
@[simp] theorem setMem_params : (s.setMem v).params = s.params := rfl
@[simp] theorem setMem_draws : (s.setMem v).draws = s.draws := rfl
@[simp] theorem setMem_tally : (s.setMem v).tally = s.tally := rfl
@[simp] theorem setMem_wire : (s.setMem v).wire = s.wire := rfl
@[simp] theorem setMem_agenda : (s.setMem v).agenda = s.agenda := rfl
@[simp] theorem setMem_host : (s.setMem v).host = s.host := rfl
@[simp] theorem setMem_busAgent : (s.setMem v).busAgent = s.busAgent := rfl
end setMem

section setSeq
variable (s : State) (v : Seq)
@[simp] theorem setSeq_cmd : (s.setSeq v).cmd = s.cmd := rfl
@[simp] theorem setSeq_outcome : (s.setSeq v).outcome = s.outcome := rfl
@[simp] theorem setSeq_ready : (s.setSeq v).ready = s.ready := rfl
@[simp] theorem setSeq_ctrlEn : (s.setSeq v).ctrlEn = s.ctrlEn := rfl
@[simp] theorem setSeq_fault : (s.setSeq v).fault = s.fault := rfl
@[simp] theorem setSeq_mem : (s.setSeq v).mem = s.mem := rfl
@[simp] theorem setSeq_seq : (s.setSeq v).seq = v := rfl
@[simp] theorem setSeq_bus : (s.setSeq v).bus = s.bus := rfl
@[simp] theorem setSeq_data : (s.setSeq v).data = s.data := rfl
@[simp] theorem setSeq_params : (s.setSeq v).params = s.params := rfl
@[simp] theorem setSeq_draws : (s.setSeq v).draws = s.draws := rfl
@[simp] theorem setSeq_tally : (s.setSeq v).tally = s.tally := rfl
@[simp] theorem setSeq_wire : (s.setSeq v).wire = s.wire := rfl
@[simp] theorem setSeq_agenda : (s.setSeq v).agenda = s.agenda := rfl
@[simp] theorem setSeq_host : (s.setSeq v).host = s.host := rfl
@[simp] theorem setSeq_busAgent : (s.setSeq v).busAgent = s.busAgent := rfl
end setSeq

section setBus
variable (s : State) (v : Periph)
@[simp] theorem setBus_cmd : (s.setBus v).cmd = s.cmd := rfl
@[simp] theorem setBus_outcome : (s.setBus v).outcome = s.outcome := rfl
@[simp] theorem setBus_ready : (s.setBus v).ready = s.ready := rfl
@[simp] theorem setBus_ctrlEn : (s.setBus v).ctrlEn = s.ctrlEn := rfl
@[simp] theorem setBus_fault : (s.setBus v).fault = s.fault := rfl
@[simp] theorem setBus_mem : (s.setBus v).mem = s.mem := rfl
@[simp] theorem setBus_seq : (s.setBus v).seq = s.seq := rfl
@[simp] theorem setBus_bus : (s.setBus v).bus = v := rfl
@[simp] theorem setBus_data : (s.setBus v).data = s.data := rfl
@[simp] theorem setBus_params : (s.setBus v).params = s.params := rfl
@[simp] theorem setBus_draws : (s.setBus v).draws = s.draws := rfl
@[simp] theorem setBus_tally : (s.setBus v).tally = s.tally := rfl
@[simp] theorem setBus_wire : (s.setBus v).wire = s.wire := rfl
@[simp] theorem setBus_agenda : (s.setBus v).agenda = s.agenda := rfl
@[simp] theorem setBus_host : (s.setBus v).host = s.host := rfl
@[simp] theorem setBus_busAgent : (s.setBus v).busAgent = s.busAgent := rfl
end setBus

section setData
variable (s : State) (v : Readings)
@[simp] theorem setData_cmd : (s.setData v).cmd = s.cmd := rfl
@[simp] theorem setData_outcome : (s.setData v).outcome = s.outcome := rfl
@[simp] theorem setData_ready : (s.setData v).ready = s.ready := rfl
@[simp] theorem setData_ctrlEn : (s.setData v).ctrlEn = s.ctrlEn := rfl
@[simp] theorem setData_fault : (s.setData v).fault = s.fault := rfl
@[simp] theorem setData_mem : (s.setData v).mem = s.mem := rfl
@[simp] theorem setData_seq : (s.setData v).seq = s.seq := rfl
@[simp] theorem setData_bus : (s.setData v).bus = s.bus := rfl
@[simp] theorem setData_data : (s.setData v).data = v := rfl
@[simp] theorem setData_params : (s.setData v).params = s.params := rfl
@[simp] theorem setData_draws : (s.setData v).draws = s.draws := rfl
@[simp] theorem setData_tally : (s.setData v).tally = s.tally := rfl
@[simp] theorem setData_wire : (s.setData v).wire = s.wire := rfl
@[simp] theorem setData_agenda : (s.setData v).agenda = s.agenda := rfl
@[simp] theorem setData_host : (s.setData v).host = s.host := rfl
@[simp] theorem setData_busAgent : (s.setData v).busAgent = s.busAgent := rfl
end setData

section setDraws
variable (s : State) (v : Nat)
@[simp] theorem setDraws_cmd : (s.setDraws v).cmd = s.cmd := rfl
@[simp] theorem setDraws_outcome : (s.setDraws v).outcome = s.outcome := rfl
@[simp] theorem setDraws_ready : (s.setDraws v).ready = s.ready := rfl
@[simp] theorem setDraws_ctrlEn : (s.setDraws v).ctrlEn = s.ctrlEn := rfl
@[simp] theorem setDraws_fault : (s.setDraws v).fault = s.fault := rfl
@[simp] theorem setDraws_mem : (s.setDraws v).mem = s.mem := rfl
@[simp] theorem setDraws_seq : (s.setDraws v).seq = s.seq := rfl
@[simp] theorem setDraws_bus : (s.setDraws v).bus = s.bus := rfl
@[simp] theorem setDraws_data : (s.setDraws v).data = s.data := rfl
@[simp] theorem setDraws_params : (s.setDraws v).params = s.params := rfl
@[simp] theorem setDraws_draws : (s.setDraws v).draws = v := rfl
@[simp] theorem setDraws_tally : (s.setDraws v).tally = s.tally := rfl
@[simp] theorem setDraws_wire : (s.setDraws v).wire = s.wire := rfl
@[simp] theorem setDraws_agenda : (s.setDraws v).agenda = s.agenda := rfl
@[simp] theorem setDraws_host : (s.setDraws v).host = s.host := rfl
@[simp] theorem setDraws_busAgent : (s.setDraws v).busAgent = s.busAgent := rfl
end setDraws

section setTally
variable (s : State) (v : Tally)
@[simp] theorem setTally_cmd : (s.setTally v).cmd = s.cmd := rfl
@[simp] theorem setTally_outcome : (s.setTally v).outcome = s.outcome := rfl
@[simp] theorem setTally_ready : (s.setTally v).ready = s.ready := rfl
@[simp] theorem setTally_ctrlEn : (s.setTally v).ctrlEn = s.ctrlEn := rfl
@[simp] theorem setTally_fault : (s.setTally v).fault = s.fault := rfl
@[simp] theorem setTally_mem : (s.setTally v).mem = s.mem := rfl
@[simp] theorem setTally_seq : (s.setTally v).seq = s.seq := rfl
@[simp] theorem setTally_bus : (s.setTally v).bus = s.bus := rfl
@[simp] theorem setTally_data : (s.setTally v).data = s.data := rfl
@[simp] theorem setTally_params : (s.setTally v).params = s.params := rfl
@[simp] theorem setTally_draws : (s.setTally v).draws = s.draws := rfl
@[simp] theorem setTally_tally : (s.setTally v).tally = v := rfl
@[simp] theorem setTally_wire : (s.setTally v).wire = s.wire := rfl
@[simp] theorem setTally_agenda : (s.setTally v).agenda = s.agenda := rfl
@[simp] theorem setTally_host : (s.setTally v).host = s.host := rfl
@[simp] theorem setTally_busAgent : (s.setTally v).busAgent = s.busAgent := rfl
end setTally

section setWire
variable (s : State) (v : List WireEvent)
@[simp] theorem setWire_cmd : (s.setWire v).cmd = s.cmd := rfl
@[simp] theorem setWire_outcome : (s.setWire v).outcome = s.outcome := rfl
@[simp] theorem setWire_ready : (s.setWire v).ready = s.ready := rfl
@[simp] theorem setWire_ctrlEn : (s.setWire v).ctrlEn = s.ctrlEn := rfl
@[simp] theorem setWire_fault : (s.setWire v).fault = s.fault := rfl
@[simp] theorem setWire_mem : (s.setWire v).mem = s.mem := rfl
@[simp] theorem setWire_seq : (s.setWire v).seq = s.seq := rfl
@[simp] theorem setWire_bus : (s.setWire v).bus = s.bus := rfl
@[simp] theorem setWire_data : (s.setWire v).data = s.data := rfl
@[simp] theorem setWire_params : (s.setWire v).params = s.params := rfl
@[simp] theorem setWire_draws : (s.setWire v).draws = s.draws := rfl
@[simp] theorem setWire_tally : (s.setWire v).tally = s.tally := rfl
@[simp] theorem setWire_wire : (s.setWire v).wire = v := rfl
@[simp] theorem setWire_agenda : (s.setWire v).agenda = s.agenda := rfl
@[simp] theorem setWire_host : (s.setWire v).host = s.host := rfl
@[simp] theorem setWire_busAgent : (s.setWire v).busAgent = s.busAgent := rfl
end setWire

section setAgenda
variable (s : State) (v : List Turn)
@[simp] theorem setAgenda_cmd : (s.setAgenda v).cmd = s.cmd := rfl
@[simp] theorem setAgenda_outcome : (s.setAgenda v).outcome = s.outcome := rfl
@[simp] theorem setAgenda_ready : (s.setAgenda v).ready = s.ready := rfl
@[simp] theorem setAgenda_ctrlEn : (s.setAgenda v).ctrlEn = s.ctrlEn := rfl
@[simp] theorem setAgenda_fault : (s.setAgenda v).fault = s.fault := rfl
@[simp] theorem setAgenda_mem : (s.setAgenda v).mem = s.mem := rfl
@[simp] theorem setAgenda_seq : (s.setAgenda v).seq = s.seq := rfl
@[simp] theorem setAgenda_bus : (s.setAgenda v).bus = s.bus := rfl
@[simp] theorem setAgenda_data : (s.setAgenda v).data = s.data := rfl
@[simp] theorem setAgenda_params : (s.setAgenda v).params = s.params := rfl
@[simp] theorem setAgenda_draws : (s.setAgenda v).draws = s.draws := rfl
@[simp] theorem setAgenda_tally : (s.setAgenda v).tally = s.tally := rfl
@[simp] theorem setAgenda_wire : (s.setAgenda v).wire = s.wire := rfl
@[simp] theorem setAgenda_agenda : (s.setAgenda v).agenda = v := rfl
@[simp] theorem setAgenda_host : (s.setAgenda v).host = s.host := rfl
@[simp] theorem setAgenda_busAgent : (s.setAgenda v).busAgent = s.busAgent := rfl
end setAgenda

section setHost
variable (s : State) (v : HostAgent)
@[simp] theorem setHost_cmd : (s.setHost v).cmd = s.cmd := rfl
@[simp] theorem setHost_outcome : (s.setHost v).outcome = s.outcome := rfl
@[simp] theorem setHost_ready : (s.setHost v).ready = s.ready := rfl
@[simp] theorem setHost_ctrlEn : (s.setHost v).ctrlEn = s.ctrlEn := rfl
@[simp] theorem setHost_fault : (s.setHost v).fault = s.fault := rfl
@[simp] theorem setHost_mem : (s.setHost v).mem = s.mem := rfl
@[simp] theorem setHost_seq : (s.setHost v).seq = s.seq := rfl
@[simp] theorem setHost_bus : (s.setHost v).bus = s.bus := rfl
@[simp] theorem setHost_data : (s.setHost v).data = s.data := rfl
@[simp] theorem setHost_params : (s.setHost v).params = s.params := rfl
@[simp] theorem setHost_draws : (s.setHost v).draws = s.draws := rfl
@[simp] theorem setHost_tally : (s.setHost v).tally = s.tally := rfl
@[simp] theorem setHost_wire : (s.setHost v).wire = s.wire := rfl
@[simp] theorem setHost_agenda : (s.setHost v).agenda = s.agenda := rfl
@[simp] theorem setHost_host : (s.setHost v).host = v := rfl
@[simp] theorem setHost_busAgent : (s.setHost v).busAgent = s.busAgent := rfl
end setHost

section setBusAgent
variable (s : State) (v : BusAgent)
@[simp] theorem setBusAgent_cmd : (s.setBusAgent v).cmd = s.cmd := rfl
@[simp] theorem setBusAgent_outcome : (s.setBusAgent v).outcome = s.outcome := rfl
@[simp] theorem setBusAgent_ready : (s.setBusAgent v).ready = s.ready := rfl
@[simp] theorem setBusAgent_ctrlEn : (s.setBusAgent v).ctrlEn = s.ctrlEn := rfl
@[simp] theorem setBusAgent_fault : (s.setBusAgent v).fault = s.fault := rfl
@[simp] theorem setBusAgent_mem : (s.setBusAgent v).mem = s.mem := rfl
@[simp] theorem setBusAgent_seq : (s.setBusAgent v).seq = s.seq := rfl
@[simp] theorem setBusAgent_bus : (s.setBusAgent v).bus = s.bus := rfl
@[simp] theorem setBusAgent_data : (s.setBusAgent v).data = s.data := rfl
@[simp] theorem setBusAgent_params : (s.setBusAgent v).params = s.params := rfl
@[simp] theorem setBusAgent_draws : (s.setBusAgent v).draws = s.draws := rfl
@[simp] theorem setBusAgent_tally : (s.setBusAgent v).tally = s.tally := rfl
@[simp] theorem setBusAgent_wire : (s.setBusAgent v).wire = s.wire := rfl
@[simp] theorem setBusAgent_agenda : (s.setBusAgent v).agenda = s.agenda := rfl
@[simp] theorem setBusAgent_host : (s.setBusAgent v).host = s.host := rfl
@[simp] theorem setBusAgent_busAgent : (s.setBusAgent v).busAgent = v := rfl
end setBusAgent

/-- Two states agree when they agree on every field. -/
theorem State.eq_of_fields {s t : State}
    (hcmd : s.cmd = t.cmd) (houtcome : s.outcome = t.outcome) (hready : s.ready = t.ready)
    (hctrlEn : s.ctrlEn = t.ctrlEn) (hfault : s.fault = t.fault) (hmem : s.mem = t.mem)
    (hseq : s.seq = t.seq) (hbus : s.bus = t.bus) (hdata : s.data = t.data)
    (hparams : s.params = t.params) (hdraws : s.draws = t.draws) (htally : s.tally = t.tally)
    (hwire : s.wire = t.wire) (hagenda : s.agenda = t.agenda) (hhost : s.host = t.host)
    (hbusAgent : s.busAgent = t.busAgent) : s = t := by
  cases s; cases t; simp_all

/-- `BUSY` is 0 exactly in `IDLE` (10_state R37). -/
theorem busy_eq_false_iff (s : State) : s.busy = false ↔ s.seq = .idle := by
  simp [State.busy]

/-- `BUSY` is 1 exactly outside `IDLE` (10_state R37). -/
theorem busy_eq_true_iff (s : State) : s.busy = true ↔ s.seq ≠ .idle := by
  simp [State.busy]

/-- `FAULTED` is 0 exactly while no fault is recorded (60_exceptions R263). -/
theorem faulted_eq_false_iff (s : State) : s.faulted = false ↔ s.fault = none := by
  cases h : s.fault <;> simp [State.faulted, h]

end Sys2Proof.Machine
end

