-- ==== Sys2Proof/Laws/Memory.lean ====
section
/-! SUPPORT. The byte storage of the window: reading after writing, and the canonical form, which every
operation keeps. -/

namespace Sys2Proof.Machine

variable {β : Type}

theorem cellsGet_put_same (m : List (Nat × β)) (a : Nat) (v : β) :
    cellsGet (cellsPut m a v) a = some v := by
  induction m with
  | nil => simp [cellsPut, cellsGet]
  | cons c r ih =>
    obtain ⟨k, x⟩ := c
    simp only [cellsPut]
    split
    · simp [cellsGet]
    · split
      · simp [cellsGet]
      · rename_i h1 h2
        simp [cellsGet, Ne.symm h2, ih]

theorem cellsGet_put_other (m : List (Nat × β)) {a b : Nat} (v : β) (h : b ≠ a) :
    cellsGet (cellsPut m a v) b = cellsGet m b := by
  induction m with
  | nil => simp [cellsPut, cellsGet, Ne.symm h]
  | cons c r ih =>
    obtain ⟨k, x⟩ := c
    simp only [cellsPut]
    split
    · simp [cellsGet, Ne.symm h]
    · split
      · rename_i h1 h2
        subst h2
        simp [cellsGet, Ne.symm h]
      · by_cases hk : k = b <;> simp [cellsGet, hk, ih]

theorem mem_keys_cellsPut (m : List (Nat × β)) (a : Nat) (v : β) (k : Nat) :
    k ∈ (cellsPut m a v).map Prod.fst → k = a ∨ k ∈ m.map Prod.fst := by
  induction m with
  | nil => simp [cellsPut]
  | cons c r ih =>
    obtain ⟨k', x⟩ := c
    simp only [cellsPut]
    split
    · simp
    · split
      · rename_i h1 h2
        subst h2
        simp
      · intro h
        simp only [List.map_cons, List.mem_cons] at h ⊢
        rcases h with h | h
        · exact .inr (.inl h)
        · rcases ih h with h | h
          · exact .inl h
          · exact .inr (.inr h)

/-- An entry after a write is the one written or an old one. -/
theorem mem_cellsPut (m : List (Nat × β)) (a : Nat) (v : β) (c : Nat × β) (h : c ∈ cellsPut m a v) :
    c = (a, v) ∨ c ∈ m := by
  induction m with
  | nil => simpa [cellsPut] using h
  | cons x r ih =>
    obtain ⟨k, y⟩ := x
    simp only [cellsPut] at h
    split at h
    · simpa using h
    · split at h
      · simp only [List.mem_cons] at h ⊢
        exact h.imp_right .inr
      · simp only [List.mem_cons] at h ⊢
        rcases h with h | h
        · exact .inr (.inl h)
        · exact (ih h).imp_right .inr

theorem cellsPut_sorted (m : List (Nat × β)) (a : Nat) (v : β) (h : cellsSorted m) :
    cellsSorted (cellsPut m a v) := by
  induction m with
  | nil => simp [cellsPut, cellsSorted]
  | cons c r ih =>
    obtain ⟨k, x⟩ := c
    simp only [cellsSorted, List.map_cons, List.pairwise_cons] at h ih ⊢
    simp only [cellsPut]
    split
    · rename_i hlt
      simp only [List.map_cons, List.pairwise_cons, List.mem_cons]
      refine ⟨?_, h.1, h.2⟩
      rintro b (rfl | hb)
      · exact hlt
      · exact Nat.lt_trans hlt (h.1 b hb)
    · split
      · rename_i h1 h2
        subst h2
        simpa using h
      · rename_i h1 h2
        simp only [List.map_cons, List.pairwise_cons]
        refine ⟨fun b hb => ?_, ih h.2⟩
        rcases mem_keys_cellsPut r a v b hb with rfl | hb
        · omega
        · exact h.1 b hb

theorem cellsErase_sublist (m : List (Nat × β)) (a : Nat) : (cellsErase m a).Sublist m := by
  induction m with
  | nil => simp [cellsErase]
  | cons c r ih =>
    obtain ⟨k, x⟩ := c
    simp only [cellsErase]
    split
    · exact List.sublist_cons_self _ _
    · exact ih.cons_cons _

theorem cellsErase_sorted (m : List (Nat × β)) (a : Nat) (h : cellsSorted m) :
    cellsSorted (cellsErase m a) :=
  List.Pairwise.sublist ((cellsErase_sublist m a).map Prod.fst) h

theorem cellsGet_none_of_lt {m : List (Nat × β)} {a : Nat}
    (h : ∀ b ∈ m.map Prod.fst, a < b) : cellsGet m a = none := by
  induction m with
  | nil => rfl
  | cons c r ih =>
    obtain ⟨k, x⟩ := c
    simp only [List.map_cons, List.mem_cons, forall_eq_or_imp] at h
    have : k ≠ a := by omega
    simp [cellsGet, this, ih h.2]

/-- Equal contents are equal data: two lists in canonical form that read alike are the same list. -/
theorem eq_of_cellsGet_eq {m n : List (Nat × β)} (hm : cellsSorted m) (hn : cellsSorted n)
    (h : ∀ a, cellsGet m a = cellsGet n a) : m = n := by
  induction m generalizing n with
  | nil =>
    cases n with
    | nil => rfl
    | cons c r => have := h c.1; simp [cellsGet] at this
  | cons c r ih =>
    obtain ⟨k, x⟩ := c
    cases n with
    | nil => have := h k; simp [cellsGet] at this
    | cons d q =>
      obtain ⟨l, y⟩ := d
      simp only [cellsSorted, List.map_cons, List.pairwise_cons] at hm hn
      have hk := h k
      have hl := h l
      have hkl : k = l := by
        rcases Nat.lt_trichotomy k l with hlt | heq | hgt
        · have : cellsGet q k = none :=
            cellsGet_none_of_lt fun b hb => Nat.lt_trans hlt (hn.1 b hb)
          simp [cellsGet, this, Nat.ne_of_gt hlt] at hk
        · exact heq
        · have : cellsGet r l = none :=
            cellsGet_none_of_lt fun b hb => Nat.lt_trans hgt (hm.1 b hb)
          simp [cellsGet, this, Nat.ne_of_gt hgt] at hl
      subst hkl
      have hxy : x = y := by simpa [cellsGet] using hk
      subst hxy
      refine congrArg _ (ih hm.2 hn.2 fun a => ?_)
      by_cases ha : k = a
      · subst ha
        rw [cellsGet_none_of_lt hm.1, cellsGet_none_of_lt hn.1]
      · simpa [cellsGet, ha] using h a

/-! ## The window's storage -/

theorem memGet_put_same (m : Memory) {a : Nat} (b : Byte) (h : txBase ≤ a ∧ a < bufEnd) :
    memGet (memPut m a b) a = some b := by
  simp [memGet, memPut, h, cellsGet_put_same]

theorem memGet_put_other (m : Memory) {a c : Nat} (b : Byte) (h : c ≠ a) :
    memGet (memPut m a b) c = memGet m c := by
  unfold memGet memPut
  split
  · exact cellsGet_put_other m b h
  · rfl

/-- Every write keeps the canonical form. -/
theorem memPut_wf (m : Memory) (a : Nat) (b : Byte) (h : Memory.wf m) : Memory.wf (memPut m a b) := by
  unfold memPut
  split
  · rename_i ha
    refine ⟨cellsPut_sorted m a b h.1, fun c hc => ?_⟩
    rcases mem_keys_cellsPut m a b c.1 (List.mem_map_of_mem hc) with hk | hk
    · rw [hk]; exact ha
    · obtain ⟨d, hd, hk⟩ := List.mem_map.1 hk
      rw [← hk]; exact h.2 d hd
  · exact h

theorem reset_mem_wf : Memory.wf State.reset.mem := by
  simp [State.reset, Memory.wf, cellsSorted]

theorem putTx_wf (s : State) (j : Nat) (b : Byte) (h : Memory.wf s.mem) :
    Memory.wf (s.putTx j b).mem := memPut_wf _ _ _ h

theorem putRx_wf (s : State) (j : Nat) (b : Byte) (h : Memory.wf s.mem) :
    Memory.wf (s.putRx j b).mem := memPut_wf _ _ _ h

end Sys2Proof.Machine
end

