-- ==== Sys2Proof/Laws/BusAgent.lean ====
section
/-! SUPPORT. The reference device (40_bus R148): its registers read back, stay in canonical form, and
change only where R148 says. -/

namespace Sys2Proof.Machine

/-- `DEVREG[r]` after a write of it. -/
theorem RefDevice.reg_setReg_same (d : RefDevice) (r b : Byte) (h : b ≠ 0) :
    (d.setReg r b).reg r = b := by
  unfold RefDevice.reg RefDevice.setReg
  rw [if_neg h, cellsGet_put_same]
  rfl

/-- Another register after a write that is not of 0. -/
theorem RefDevice.reg_setReg_other (d : RefDevice) {r q : Byte} (b : Byte) (hb : b ≠ 0) (h : q ≠ r) :
    (d.setReg r b).reg q = d.reg q := by
  have : q.toNat ≠ r.toNat := fun k => h (BitVec.eq_of_toNat_eq k)
  unfold RefDevice.reg RefDevice.setReg
  rw [if_neg hb, cellsGet_put_other _ _ this]

/-- A write keeps the registers in canonical form. -/
theorem RefDevice.setReg_wf (d : RefDevice) (r b : Byte) (h : d.wf) : (d.setReg r b).wf := by
  unfold RefDevice.setReg
  by_cases hb : b = 0
  · simp only [hb, if_true]
    exact ⟨cellsErase_sorted _ _ h.1, fun c hc => h.2 c ((cellsErase_sublist _ _).subset hc)⟩
  · simp only [hb, if_false]
    refine ⟨cellsPut_sorted _ _ _ h.1, fun c hc => ?_⟩
    rcases mem_cellsPut d.regs r.toNat b c hc with rfl | hc
    · exact hb
    · exact h.2 c hc

/-- So does every event. -/
theorem RefDevice.after_wf (q : Params) (d : RefDevice) (b : Byte) (e : BusEvent) (h : d.wf) :
    (d.after q b e).wf := by
  cases e <;> simp only [RefDevice.after] <;> first | exact h | skip
  split
  · exact h
  · split
    · exact RefDevice.setReg_wf d d.ptr b h
    · exact h

end Sys2Proof.Machine
end

