-- ==== Sys2Proof/Laws/Sequencer.lean ====
section
/-! SUPPORT. What one sequencer step can do: what it leaves alone (`Keeps`), and that it brings the
command's end nearer (`seqStep_cost`). -/

namespace Sys2Proof.Machine

/-! ## What the sequencer leaves alone -/

/-- What no sequencer step changes: the parameters, `CTRL.EN`, `CMD`, the agenda, the host, the bus
agent, the wire, `CR.PE` and the canonical form of the buffers. -/
structure Keeps (s t : State) : Prop where
  params : t.params = s.params
  ctrlEn : t.ctrlEn = s.ctrlEn
  cmd : t.cmd = s.cmd
  agenda : t.agenda = s.agenda
  host : t.host = s.host
  busAgent : t.busAgent = s.busAgent
  wire : t.wire = s.wire
  pe : t.bus.cr.pe = s.bus.cr.pe
  wf : Memory.wf s.mem → Memory.wf t.mem

theorem Keeps.refl (s : State) : Keeps s s := ⟨rfl, rfl, rfl, rfl, rfl, rfl, rfl, rfl, id⟩

theorem Keeps.trans {s t u : State} (h : Keeps s t) (k : Keeps t u) : Keeps s u :=
  ⟨k.params.trans h.params, k.ctrlEn.trans h.ctrlEn, k.cmd.trans h.cmd, k.agenda.trans h.agenda,
    k.host.trans h.host, k.busAgent.trans h.busAgent, k.wire.trans h.wire, k.pe.trans h.pe,
    fun w => k.wf (h.wf w)⟩

theorem keeps_setSeq (s : State) (q : Seq) : Keeps s (s.setSeq q) :=
  ⟨rfl, rfl, rfl, rfl, rfl, rfl, rfl, rfl, id⟩
theorem keeps_setOutcome (s : State) (o : TxOutcome) : Keeps s (s.setOutcome o) :=
  ⟨rfl, rfl, rfl, rfl, rfl, rfl, rfl, rfl, id⟩
theorem keeps_setReady (s : State) (b : Bool) : Keeps s (s.setReady b) :=
  ⟨rfl, rfl, rfl, rfl, rfl, rfl, rfl, rfl, id⟩
theorem keeps_setData (s : State) (d : Readings) : Keeps s (s.setData d) :=
  ⟨rfl, rfl, rfl, rfl, rfl, rfl, rfl, rfl, id⟩
theorem keeps_setDraws (s : State) (n : Nat) : Keeps s (s.setDraws n) :=
  ⟨rfl, rfl, rfl, rfl, rfl, rfl, rfl, rfl, id⟩
theorem keeps_setTally (s : State) (n : Tally) : Keeps s (s.setTally n) :=
  ⟨rfl, rfl, rfl, rfl, rfl, rfl, rfl, rfl, id⟩
theorem keeps_raise (s : State) (c : FaultCode) (i : Byte) : Keeps s (raiseFault c i s) :=
  ⟨rfl, rfl, rfl, rfl, rfl, rfl, rfl, rfl, id⟩
theorem keeps_putTx (s : State) (j : Nat) (b : Byte) : Keeps s (s.putTx j b) :=
  ⟨rfl, rfl, rfl, rfl, rfl, rfl, rfl, rfl, putTx_wf s j b⟩
theorem keeps_putRx (s : State) (j : Nat) (b : Byte) : Keeps s (s.putRx j b) :=
  ⟨rfl, rfl, rfl, rfl, rfl, rfl, rfl, rfl, putRx_wf s j b⟩
theorem keeps_onBus (s : State) (f : Periph → Periph) (h : (f s.bus).cr.pe = s.bus.cr.pe) :
    Keeps s (s.onBus f) :=
  ⟨rfl, rfl, rfl, rfl, rfl, rfl, rfl, h, id⟩

@[simp] theorem setStart_pe (p : Periph) (v : Bool) : (p.setStart v).cr.pe = p.cr.pe := rfl
@[simp] theorem setStop_pe (p : Periph) (v : Bool) : (p.setStop v).cr.pe = p.cr.pe := rfl
@[simp] theorem setAck_pe (p : Periph) (v : Bool) : (p.setAck v).cr.pe = p.cr.pe := rfl
@[simp] theorem readDR_pe (p : Periph) : p.readDR.cr.pe = p.cr.pe := rfl
@[simp] theorem clearStatus_pe (p : Periph) : p.clearStatus.cr.pe = p.cr.pe := rfl
@[simp] theorem clearAF_pe (p : Periph) : p.clearAF.cr.pe = p.cr.pe := rfl
/-- `WriteDR` changes no control bit (R44). -/
@[simp] theorem writeDR_cr (p : Periph) (b : Byte) : (p.writeDR b).cr = p.cr := by
  unfold Periph.writeDR; split <;> [rfl; (split <;> rfl)]
@[simp] theorem armReceive_pe (n : Nat) (p : Periph) : (armReceive n p).cr.pe = p.cr.pe := by
  unfold armReceive; split <;> simp

theorem keeps_endCmd (s : State) : Keeps s (endCmd s) := keeps_setSeq s _

theorem keeps_callStart (c : Instr) (r : Ret) (pt : Point) (s : State) :
    Keeps s (callStart c r pt s) :=
  ((keeps_setTally s _).trans (keeps_onBus _ _ rfl)).trans (keeps_setSeq _ _)

theorem keeps_callStop (c : Instr) (r : Ret) (pt : Point) (s : State) : Keeps s (callStop c r pt s) :=
  (keeps_onBus s _ rfl).trans (keeps_setSeq _ _)

theorem keeps_pollOnBus (c : Instr) (r : Ret) (pt : Point) (s : State) (f : Periph → Periph)
    (h : (f s.bus).cr.pe = s.bus.cr.pe) : Keeps s (beginPoll c r pt (s.onBus f)) :=
  (keeps_onBus s f h).trans (keeps_setSeq _ _)

theorem keeps_callWrite (c : Instr) (r : Ret) (a : Addr7) (n : Nat) (s : State) :
    Keeps s (callWrite c r a n s) := by
  unfold callWrite; split
  · exact keeps_raise ..
  · exact keeps_callStart ..

theorem keeps_sendByte (c : Instr) (r : Ret) (a : Addr7) (n i : Nat) (s : State) :
    Keeps s (sendByte c r a n i s) := by
  unfold sendByte; split
  · split
    · exact keeps_pollOnBus _ _ _ _ _ (by simp)
    · exact keeps_raise ..
  · exact keeps_callStop ..

theorem keeps_takeByte (n i : Nat) (s : State) : Keeps s (takeByte n i s) := by
  have h : Keeps s ((s.putRx i s.bus.dr).onBus Periph.readDR) :=
    (keeps_putRx s i _).trans (keeps_onBus _ _ rfl)
  unfold takeByte
  dsimp only
  split
  · exact h.trans (keeps_onBus _ _ rfl)
  · exact h

theorem keeps_regWrite (c : Instr) (ret : Ret) (r v : Byte) (s : State) :
    Keeps s (callRegWrite c ret r v s) :=
  ((keeps_putTx s 0 r).trans (keeps_putTx _ 1 v)).trans (keeps_callWrite ..)

theorem keeps_regRead (c : Instr) (ret : Ret) (r : Byte) (s : State) :
    Keeps s (callRegRead c ret r s) :=
  (keeps_putTx s 0 r).trans (keeps_callWrite ..)

theorem keeps_unlessFaulted (f : State → State) (s : State) (h : ∀ s, Keeps s (f s)) :
    Keeps s (unlessFaulted f s) := by
  unfold unlessFaulted; split
  · exact Keeps.refl s
  · exact h s

theorem keeps_runCompT (s : State) : Keeps s (runCompT s) := by
  unfold runCompT; split
  · exact keeps_raise ..
  · exact keeps_raise ..
  · exact keeps_setData ..

theorem keeps_runCompP (s : State) : Keeps s (runCompP s) := by
  unfold runCompP; split
  · exact keeps_raise ..
  · exact keeps_raise ..
  · split
    · exact keeps_raise ..
    · split
      · exact keeps_raise ..
      · exact keeps_setData ..

theorem keeps_enterCompT (s : State) : Keeps s (enterCompT s) :=
  (keeps_runCompT s).trans (keeps_unlessFaulted _ _ keeps_endCmd)

theorem keeps_enterCompP (s : State) : Keeps s (enterCompP s) :=
  (keeps_runCompP s).trans (keeps_unlessFaulted _ _ keeps_endCmd)

theorem keeps_acquireRest (s : State) : Keeps s (acquireRest s) :=
  ((keeps_runCompT s).trans (keeps_unlessFaulted _ _ keeps_runCompP)).trans
    (keeps_unlessFaulted _ _ keeps_endCmd)

theorem keeps_calUpdate (o : TxOutcome) (s : State) : Keeps s (calUpdate o s) := by
  cases o
  · exact keeps_setData ..
  · exact Keeps.refl s
  · exact Keeps.refl s

theorem keeps_drawRaw (s : State) : Keeps s (drawRaw s) :=
  ((keeps_setDraws s _).trans (keeps_setDraws _ _)).trans (keeps_setData _ _)

theorem keeps_rawUpdate (o : TxOutcome) (s : State) : Keeps s (rawUpdate o s) := by
  cases o
  · exact keeps_setData ..
  · exact keeps_drawRaw s
  · exact keeps_drawRaw s

theorem keeps_idUpdate (o : TxOutcome) (s : State) : Keeps s (idUpdate o s) := by
  cases o
  · exact keeps_setData ..
  · exact (keeps_setDraws s _).trans (keeps_setData _ _)
  · exact (keeps_setDraws s _).trans (keeps_setData _ _)

theorem keeps_calDone (c : Instr) (o : TxOutcome) (s : State) : Keeps s (calDone c o s) := by
  unfold calDone; split
  · exact (keeps_calUpdate o s).trans (keeps_regWrite ..)
  · exact (keeps_calUpdate o s).trans (keeps_endCmd _)

theorem keeps_rawDone (c : Instr) (o : TxOutcome) (s : State) : Keeps s (rawDone c o s) := by
  unfold rawDone; split
  · exact (keeps_rawUpdate o s).trans (keeps_acquireRest _)
  · exact (keeps_rawUpdate o s).trans (keeps_endCmd _)

theorem keeps_idDone (c : Instr) (o : TxOutcome) (s : State) : Keeps s (idDone c o s) := by
  unfold idDone
  dsimp only
  split
  · exact (keeps_idUpdate o s).trans (keeps_regRead ..)
  · exact (keeps_idUpdate o s).trans (keeps_endCmd _)

theorem keeps_returnProbe (c : Instr) (r : Ret) (b : Bool) (s : State) :
    Keeps s (returnProbe c r b s) := by
  have e : Keeps s (endCmd (s.setReady b)) := (keeps_setReady s b).trans (keeps_endCmd _)
  cases r <;> first | exact e | skip
  unfold returnProbe; dsimp only; split
  · exact (keeps_setReady s b).trans (keeps_regRead ..)
  · exact e

theorem keeps_callProbe (c : Instr) (r : Ret) (a : Addr7) (m : Nat) (s : State) :
    Keeps s (callProbe c r a m s) := by
  unfold callProbe; split
  · exact keeps_returnProbe ..
  · exact keeps_callStart ..

theorem keeps_returnWrite (c : Instr) (r : Ret) (o : TxOutcome) (s : State) :
    Keeps s (returnWrite c r o s) := by
  have h := keeps_setOutcome s o
  have e : Keeps s (endCmd (s.setOutcome o)) := h.trans (keeps_endCmd _)
  cases r <;> first | exact e | skip
  all_goals unfold returnWrite; dsimp only
  · split
    · exact h.trans (keeps_callStart ..)
    · exact h.trans (keeps_calDone ..)
  · exact h.trans (keeps_regWrite ..)
  · split
    · exact h.trans (keeps_callStart ..)
    · exact h.trans (keeps_rawDone ..)
  · split
    · exact h.trans (keeps_callStart ..)
    · exact h.trans (keeps_idDone ..)

theorem keeps_returnRead (c : Instr) (r : Ret) (o : TxOutcome) (s : State) :
    Keeps s (returnRead c r o s) := by
  have h := keeps_setOutcome s o
  have e : Keeps s (endCmd (s.setOutcome o)) := h.trans (keeps_endCmd _)
  cases r <;> first | exact e | skip
  · exact h.trans (keeps_calDone ..)
  · exact h.trans (keeps_rawDone ..)
  · exact h.trans (keeps_idDone ..)

theorem keeps_nextAttempt (c : Instr) (r : Ret) (a : Addr7) (m k : Nat) (s : State) :
    Keeps s (nextAttempt c r a m k s) := by
  unfold nextAttempt; split
  · exact keeps_callStart ..
  · exact keeps_returnProbe ..

theorem keeps_resume (c : Instr) (r : Ret) (pt : Point) (res : Option Obs) (s : State) :
    Keeps s (resume c r pt res s) := by
  cases pt <;> simp only [resume]
  case s2 => exact (keeps_setOutcome s _).trans (keeps_endCmd _)
  case p2 => exact (keeps_setOutcome s _).trans (keeps_endCmd _)
  case w1 =>
    split
    · exact keeps_pollOnBus _ _ _ _ _ (by simp)
    · exact keeps_callStop ..
  case w4 =>
    unfold afterW4; split
    · exact keeps_callStop ..
    · split
      · exact (keeps_onBus s _ rfl).trans (keeps_callStop ..)
      · exact (keeps_onBus s _ rfl).trans (keeps_sendByte ..)
  case w10 =>
    split
    · exact keeps_sendByte ..
    · exact keeps_callStop ..
  case wStop => exact keeps_returnWrite ..
  case rd2 =>
    split
    · exact keeps_pollOnBus _ _ _ _ _ (by simp)
    · exact keeps_callStop ..
  case rd5 =>
    unfold afterRd5; split
    · exact keeps_callStop ..
    · split
      · exact (keeps_onBus s _ rfl).trans (keeps_callStop ..)
      · exact keeps_pollOnBus _ _ _ _ _ (by simp)
  case rd11 =>
    unfold afterRd11; split
    · exact keeps_callStop ..
    · split
      · exact (keeps_takeByte ..).trans (keeps_setSeq _ _)
      · exact (keeps_takeByte ..).trans (keeps_returnRead ..)
  case rdStop => exact keeps_returnRead ..
  case q2 =>
    split
    · exact keeps_pollOnBus _ _ _ _ _ (by simp)
    · exact keeps_nextAttempt ..
  case q5 =>
    unfold afterQ5; split
    · exact keeps_callStop ..
    · split
      · exact (keeps_onBus s _ rfl).trans (keeps_callStop ..)
      · exact (keeps_onBus s _ rfl).trans (keeps_callStop ..)
  case qStop =>
    split
    · exact keeps_returnProbe ..
    · exact keeps_nextAttempt ..

theorem keeps_enter (c : Instr) (s : State) : Keeps s (enter c s) := by
  cases c <;> simp only [enter]
  case start => exact keeps_callStart ..
  case stop => exact keeps_callStop ..
  case write => exact keeps_callWrite ..
  case read =>
    split
    · exact (keeps_setOutcome s _).trans (keeps_endCmd _)
    · exact keeps_callStart ..
  case probe => exact keeps_callProbe ..
  case readCal => exact keeps_regRead ..
  case configure => exact keeps_regWrite ..
  case readRaw => exact keeps_regRead ..
  case init => exact keeps_callProbe ..
  case compT => exact keeps_enterCompT s
  case compP => exact keeps_enterCompP s
  case acquire => exact keeps_regRead ..

theorem keeps_observeStep (c : Instr) (r : Ret) (pt : Point) (j : Nat) (s : State) :
    Keeps s (observeStep c r pt j s) := by
  unfold observeStep
  dsimp only
  split
  · exact (keeps_setTally s _).trans (keeps_setSeq _ _)
  · split
    · exact (keeps_setTally s _).trans (keeps_setSeq _ _)
    · exact (keeps_setTally s _).trans (keeps_setSeq _ _)

/-- One sequencer step changes nothing of `Keeps`. -/
theorem seqStep_keeps (s : State) : Keeps s (seqStep s) := by
  unfold seqStep
  split
  · exact Keeps.refl s
  · exact (keeps_setTally s _).trans (keeps_enter ..)
  · exact (keeps_setTally s _).trans (keeps_observeStep ..)
  · exact (keeps_setTally s _).trans (keeps_resume ..)

/-! ## A step brings the end nearer (40_bus R156) -/

/-- Every budget is at least 1 (00_scope R8). -/
theorem budget_pos (p : Params) (pt : Point) : 0 < pt.budget p := by
  cases pt <;> simp [Point.budget, Params.bStart, Params.bStop, Params.bAddr, Params.bBtf, Params.bRxne]

/-- At the first observation of a poll. -/
theorem stepsLeft_poll0 (p : Params) (c : Instr) (r : Ret) (pt : Point) :
    stepsLeft p (.poll c r pt 0) = pt.budget p + 1 + pointCost p c r pt := by
  have := budget_pos p pt
  simp only [stepsLeft]; omega

/-- `t` is at the end, or stopped by a fault, or has at most `n` steps left. -/
def CostLe (p : Params) (n : Nat) (t : State) : Prop := t.faulted = true ∨ stepsLeft p t.seq ≤ n

theorem CostLe.mono {p : Params} {m n : Nat} {t : State} (h : CostLe p m t) (hmn : m ≤ n) :
    CostLe p n t := h.imp id fun h => h.trans hmn

theorem cost_raise (p : Params) (n : Nat) (c : FaultCode) (i : Byte) (s : State) :
    CostLe p n (raiseFault c i s) := .inl rfl

theorem cost_endCmd (p : Params) (n : Nat) (s : State) : CostLe p n (endCmd s) :=
  .inr (by simp [endCmd, stepsLeft])

theorem cost_beginPoll (p : Params) (c : Instr) (r : Ret) (pt : Point) (s : State) :
    CostLe p (pt.budget p + 1 + pointCost p c r pt) (beginPoll c r pt s) :=
  .inr (by simp [beginPoll, stepsLeft_poll0])

theorem cost_callStart (p : Params) (c : Instr) (r : Ret) (pt : Point) (s : State) :
    CostLe p (pt.budget p + 1 + pointCost p c r pt) (callStart c r pt s) := cost_beginPoll ..

theorem cost_callStop (p : Params) (c : Instr) (r : Ret) (pt : Point) (s : State) :
    CostLe p (pt.budget p + 1 + pointCost p c r pt) (callStop c r pt s) := cost_beginPoll ..

theorem cost_callWrite (p : Params) (c : Instr) (r : Ret) (a : Addr7) (n : Nat) (s : State) :
    CostLe p (writeCost p n + retCost p c r) (callWrite c r a n s) := by
  unfold callWrite; split
  · exact cost_raise ..
  · refine (cost_callStart ..).mono ?_
    simp only [Point.budget, pointCost, writeCost]; omega

theorem cost_callRead (p : Params) (c : Instr) (r : Ret) (a : Addr7) {n : Nat} (s : State)
    (hn : 0 < n) : CostLe p (readCost p n + retCost p c r) (callRead c r a n s) := by
  refine (cost_callStart ..).mono ?_
  simp only [Point.budget, pointCost, readCost, Nat.max_eq_left hn]; omega

theorem cost_stopW (p : Params) (c : Instr) (r : Ret) (o : TxOutcome) (s : State) :
    CostLe p ((p.bStop + 1) + retCost p c r) (callStop c r (.wStop o) s) :=
  (cost_callStop ..).mono (by simp [Point.budget, pointCost])

theorem cost_stopR (p : Params) (c : Instr) (r : Ret) (o : TxOutcome) (s : State) :
    CostLe p ((p.bStop + 1) + retCost p c r) (callStop c r (.rdStop o) s) :=
  (cost_callStop ..).mono (by simp [Point.budget, pointCost])

theorem cost_stopQ (p : Params) (c : Instr) (r : Ret) (a : Addr7) (m k : Nat) (b : Bool) (s : State) :
    CostLe p ((p.bStop + 1) + ((m - k) * attemptCost p + retCost p c r))
      (callStop c r (.qStop a m k b) s) :=
  (cost_callStop ..).mono (by simp [Point.budget, pointCost])

theorem cost_sendByte (p : Params) (c : Instr) (r : Ret) (a : Addr7) (n i : Nat) (s : State) :
    CostLe p ((n - i) * (p.bBtf + 1) + ((p.bStop + 1) + retCost p c r)) (sendByte c r a n i s) := by
  unfold sendByte; split
  · rename_i hi
    split
    · refine (cost_beginPoll ..).mono ?_
      have : n - i = (n - (i + 1)) + 1 := by omega
      simp only [Point.budget, pointCost, this, Nat.add_mul]; omega
    · exact cost_raise ..
  · exact (cost_stopW ..).mono (by omega)

theorem cost_regWrite (p : Params) (c : Instr) (ret : Ret) (r v : Byte) (s : State) :
    CostLe p (writeCost p 2 + retCost p c ret) (callRegWrite c ret r v s) := cost_callWrite ..

theorem cost_regRead (p : Params) (c : Instr) (ret : Ret) (r : Byte) (s : State) :
    CostLe p (writeCost p 1 + retCost p c ret) (callRegRead c ret r s) := cost_callWrite ..

theorem cost_unlessFaulted_endCmd (p : Params) (n : Nat) (s : State) :
    CostLe p n (unlessFaulted endCmd s) := by
  unfold unlessFaulted; split
  · rename_i h; exact .inl h
  · exact cost_endCmd ..

theorem cost_calDone (p : Params) (c : Instr) (o : TxOutcome) (s : State) :
    CostLe p (calTail p c) (calDone c o s) := by
  unfold calDone; split
  · rename_i h
    refine (cost_regWrite ..).mono ?_
    simp [calTail, h, retCost]
  · exact cost_endCmd ..

theorem cost_rawDone (p : Params) (n : Nat) (c : Instr) (o : TxOutcome) (s : State) :
    CostLe p n (rawDone c o s) := by
  unfold rawDone; split
  · exact cost_unlessFaulted_endCmd ..
  · exact cost_endCmd ..

theorem cost_idDone (p : Params) (c : Instr) (o : TxOutcome) (s : State) :
    CostLe p (retCost p c .i3Burst) (idDone c o s) := by
  unfold idDone
  dsimp only
  split
  · exact cost_regRead ..
  · exact cost_endCmd ..

theorem cost_returnProbe (p : Params) (c : Instr) (r : Ret) (b : Bool) (s : State) :
    CostLe p (retCost p c r) (returnProbe c r b s) := by
  cases r <;> first | exact cost_endCmd _ _ (s.setReady b) | skip
  unfold returnProbe; dsimp only; split
  · exact cost_regRead ..
  · exact cost_endCmd ..

theorem cost_probeAttempt (p : Params) (c : Instr) (r : Ret) (a : Addr7) (m k : Nat) (s : State)
    (h : k < m) : CostLe p ((m - k) * attemptCost p + retCost p c r)
      (probeAttempt c r a m (k + 1) s) := by
  refine (cost_callStart ..).mono ?_
  have : m - k = (m - (k + 1)) + 1 := by omega
  simp only [Point.budget, pointCost, this, Nat.add_mul, attemptCost]; omega

theorem cost_nextAttempt (p : Params) (c : Instr) (r : Ret) (a : Addr7) (m k : Nat) (s : State) :
    CostLe p ((m - k) * attemptCost p + retCost p c r) (nextAttempt c r a m k s) := by
  unfold nextAttempt; split
  · rename_i h; exact cost_probeAttempt p c r a m k s h
  · exact (cost_returnProbe ..).mono (by omega)

theorem cost_callProbe (p : Params) (c : Instr) (r : Ret) (a : Addr7) (m : Nat) (s : State) :
    CostLe p (m * attemptCost p + retCost p c r) (callProbe c r a m s) := by
  unfold callProbe; split
  · exact (cost_returnProbe ..).mono (by omega)
  · rename_i h
    have := cost_probeAttempt p c r a m 0 s (by omega)
    simpa using this

theorem cost_returnWrite (p : Params) (c : Instr) (r : Ret) (o : TxOutcome) (s : State) :
    CostLe p (retCost p c r) (returnWrite c r o s) := by
  cases r <;> first | exact cost_endCmd _ _ (s.setOutcome o) | skip
  all_goals unfold returnWrite; dsimp only
  · split
    · exact cost_callRead _ _ _ _ _ (by decide)
    · exact (cost_calDone ..).mono (by simp [retCost])
  · exact (cost_regWrite ..).mono (by simp [retCost])
  · split
    · exact (cost_callRead _ _ _ _ _ (by decide)).mono (by simp [retCost])
    · exact cost_rawDone ..
  · split
    · exact (cost_callRead _ _ _ _ _ (by decide)).mono (by simp [retCost])
    · exact (cost_idDone ..).mono (by simp [retCost])

theorem cost_returnRead (p : Params) (c : Instr) (r : Ret) (o : TxOutcome) (s : State) :
    CostLe p (retCost p c r) (returnRead c r o s) := by
  cases r <;> first | exact cost_endCmd _ _ (s.setOutcome o) | skip
  · exact cost_calDone ..
  · exact cost_rawDone ..
  · exact cost_idDone ..

theorem cost_resume (p : Params) (c : Instr) (r : Ret) (pt : Point) (res : Option Obs) (s : State) :
    CostLe p (pointCost p c r pt) (resume c r pt res s) := by
  cases pt <;> simp only [resume]
  case s2 => exact cost_endCmd ..
  case p2 => exact cost_endCmd ..
  case w1 =>
    split
    · refine (cost_beginPoll ..).mono ?_
      simp only [Point.budget, pointCost]; omega
    · exact (cost_stopW ..).mono (by simp only [pointCost]; omega)
  case w4 =>
    unfold afterW4; split
    · exact (cost_stopW ..).mono (by simp only [pointCost]; omega)
    · split
      · exact (cost_stopW ..).mono (by simp only [pointCost]; omega)
      · exact (cost_sendByte ..).mono (by simp [pointCost])
  case w10 =>
    split
    · exact cost_sendByte ..
    · exact (cost_stopW ..).mono (by simp only [pointCost]; omega)
  case wStop => exact cost_returnWrite ..
  case rd2 =>
    split
    · refine (cost_beginPoll ..).mono ?_
      simp only [Point.budget, pointCost]; omega
    · exact (cost_stopR ..).mono (by simp only [pointCost]; omega)
  case rd5 a n =>
    unfold afterRd5; split
    · exact (cost_stopR ..).mono (by simp only [pointCost]; omega)
    · split
      · exact (cost_stopR ..).mono (by simp only [pointCost]; omega)
      · refine (cost_beginPoll ..).mono ?_
        have : max n 1 = (n - (0 + 1)) + 1 := by omega
        simp only [Point.budget, pointCost, this, Nat.add_mul]; omega
  case rd11 a n i =>
    unfold afterRd11; split
    · exact (cost_stopR ..).mono (by simp only [pointCost]; omega)
    · split
      · rename_i h
        refine (cost_beginPoll ..).mono ?_
        have : n - (i + 1) = (n - (i + 1 + 1)) + 1 := by omega
        simp only [Point.budget, pointCost, this, Nat.add_mul]; omega
      · exact (cost_returnRead ..).mono (by simp only [pointCost]; omega)
  case rdStop => exact cost_returnRead ..
  case q2 =>
    split
    · refine (cost_beginPoll ..).mono ?_
      simp only [Point.budget, pointCost]; omega
    · exact (cost_nextAttempt ..).mono (by simp only [pointCost]; omega)
  case q5 =>
    unfold afterQ5; split
    · exact cost_stopQ ..
    · split
      · exact cost_stopQ ..
      · exact cost_stopQ ..
  case qStop =>
    split
    · exact (cost_returnProbe ..).mono (by simp only [pointCost]; omega)
    · exact cost_nextAttempt ..

theorem cost_enter (c : Instr) (s : State) : CostLe s.params (entryCost s.params c) (enter c s) := by
  cases c <;> simp only [enter, entryCost]
  case start => exact (cost_callStart ..).mono (by simp [Point.budget, pointCost])
  case stop => exact (cost_callStop ..).mono (by simp [Point.budget, pointCost])
  case write => exact (cost_callWrite ..).mono (by simp [retCost])
  case read a n =>
    split
    · exact cost_endCmd ..
    · rename_i h
      have : 0 < n.toNat := by
        rcases Nat.eq_zero_or_pos n.toNat with h0 | h0
        · exact absurd (BitVec.eq_of_toNat_eq (by simpa using h0)) h
        · exact h0
      exact (cost_callRead _ _ _ _ _ this).mono (by simp [retCost])
  case probe => exact (cost_callProbe ..).mono (by simp [retCost])
  case readCal => exact cost_regRead ..
  case configure => exact (cost_regWrite ..).mono (by simp [retCost])
  case readRaw => exact cost_regRead ..
  case init => exact cost_callProbe ..
  case compT => exact cost_unlessFaulted_endCmd ..
  case compP => exact cost_unlessFaulted_endCmd ..
  case acquire => exact cost_regRead ..

/-- Each step of a running command leaves strictly fewer steps, or raises a fault (R156). -/
theorem seqStep_cost (s : State) (h : s.busy = true) :
    (seqStep s).faulted = true ∨
      stepsLeft s.params (seqStep s).seq + 1 ≤ stepsLeft s.params s.seq := by
  have hb := (busy_eq_true_iff s).1 h
  have conv : ∀ {n : Nat} {t : State}, CostLe s.params n t → n + 1 ≤ stepsLeft s.params s.seq →
      t.faulted = true ∨ stepsLeft s.params t.seq + 1 ≤ stepsLeft s.params s.seq := by
    intro n t hc hn
    exact hc.imp id fun hc => by omega
  unfold seqStep
  split
  · rename_i hq; exact absurd hq hb
  · rename_i c hq
    exact conv (cost_enter c s.countSeqStep)
      (by simp only [hq, stepsLeft, State.countSeqStep, setTally_params]; omega)
  · rename_i c r pt j hq
    right
    unfold observeStep
    dsimp only
    split
    · simp only [hq, setSeq_seq, stepsLeft]; omega
    · split
      · rename_i _ hj
        simp only [State.countSeqStep, setTally_params] at hj
        simp only [hq, setSeq_seq, stepsLeft]; omega
      · simp only [hq, setSeq_seq, stepsLeft]; omega
  · rename_i c r pt res hq
    exact conv (cost_resume s.params c r pt res s.countSeqStep)
      (by simp only [hq, stepsLeft]; omega)

end Sys2Proof.Machine
end

