-- ==== Sys2Proof/Laws/Run.lean ====
section
/-! SUPPORT. What the bus agent can change, how an invariant is carried through a command, and that
every command ends (40_bus R156). -/

namespace Sys2Proof.Machine

/-! ## The bus agent (R145, R146) -/

/-- The bus agent changes the peripheral, the wire and itself, and nothing else; `CR.PE` and `CR.ACK`
are not its to write (10_state R41). -/
structure BusOnly (s t : State) : Prop where
  rest : t = ((s.setBus t.bus).setWire t.wire).setBusAgent t.busAgent
  pe : t.bus.cr.pe = s.bus.cr.pe
  ack : t.bus.cr.ack = s.bus.cr.ack

theorem BusOnly.refl (s : State) : BusOnly s s := ⟨rfl, rfl, rfl⟩

theorem BusOnly.trans {s t u : State} (h : BusOnly s t) (k : BusOnly t u) : BusOnly s u := by
  refine ⟨?_, k.pe.trans h.pe, k.ack.trans h.ack⟩
  rw [k.rest]
  rw [h.rest]
  rfl

section
variable {s t : State} (h : BusOnly s t)
include h
theorem BusOnly.cmd : t.cmd = s.cmd := by rw [h.rest]; rfl
theorem BusOnly.outcome : t.outcome = s.outcome := by rw [h.rest]; rfl
theorem BusOnly.ready : t.ready = s.ready := by rw [h.rest]; rfl
theorem BusOnly.ctrlEn : t.ctrlEn = s.ctrlEn := by rw [h.rest]; rfl
theorem BusOnly.fault : t.fault = s.fault := by rw [h.rest]; rfl
theorem BusOnly.mem : t.mem = s.mem := by rw [h.rest]; rfl
theorem BusOnly.seq : t.seq = s.seq := by rw [h.rest]; rfl
theorem BusOnly.data : t.data = s.data := by rw [h.rest]; rfl
theorem BusOnly.params : t.params = s.params := by rw [h.rest]; rfl
theorem BusOnly.draws : t.draws = s.draws := by rw [h.rest]; rfl
theorem BusOnly.tally : t.tally = s.tally := by rw [h.rest]; rfl
theorem BusOnly.agenda : t.agenda = s.agenda := by rw [h.rest]; rfl
theorem BusOnly.host : t.host = s.host := by rw [h.rest]; rfl
end

/-- No event touches `CR.PE` or `CR.ACK` (R146). -/
theorem effect_pe_ack (p : Periph) (e : BusEvent) :
    (e.effect p).cr.pe = p.cr.pe ∧ (e.effect p).cr.ack = p.cr.ack := by
  cases e <;> first | exact ⟨rfl, rfl⟩ | (unfold BusEvent.effect; dsimp only; split <;> exact ⟨rfl, rfl⟩)

/-- `AF` is sticky: no event clears it (10_state R47). -/
theorem effect_af (p : Periph) (e : BusEvent) (h : p.sr1.af = true) : (e.effect p).sr1.af = true := by
  cases e <;> first | exact h | rfl | (unfold BusEvent.effect; dsimp only; split <;> exact h)

/-- With `CR.PE = 0` no event is enabled (R145). -/
theorem enabled_false_of_pe (p : Periph) (e : BusEvent) (h : p.cr.pe = false) :
    e.enabled p = false := by simp [BusEvent.enabled, h]

theorem takeEvent_busOnly (e : BusEvent) (s : State) : BusOnly s (takeEvent e s) := by
  unfold takeEvent
  split
  · exact ⟨rfl, (effect_pe_ack s.bus e).1, (effect_pe_ack s.bus e).2⟩
  · exact BusOnly.refl s

theorem takeEvent_disabled (e : BusEvent) (s : State) (h : e.enabled s.bus = false) :
    takeEvent e s = s := by simp [takeEvent, h]

theorem takeEvent_busAgent (e : BusEvent) (s : State) : (takeEvent e s).busAgent = s.busAgent := by
  unfold takeEvent; split <;> rfl

theorem setBusAgent_busOnly (s : State) (b : BusAgent) : BusOnly s (s.setBusAgent b) :=
  ⟨rfl, rfl, rfl⟩

theorem eager_busOnly (k : Nat) (d : RefDevice) (s : State) : BusOnly s (eager k d s) := by
  induction k generalizing d s with
  | zero => exact BusOnly.refl s
  | succ k ih =>
    unfold eager
    split
    · exact BusOnly.refl s
    · exact ((takeEvent_busOnly _ s).trans (setBusAgent_busOnly _ _)).trans (ih _ _)

theorem busWindow_busOnly (s : State) : BusOnly s (busWindow s) := by
  unfold busWindow; split
  · exact BusOnly.refl s
  · exact eager_busOnly ..

theorem busTurn_busOnly (e : BusEvent) (s : State) : BusOnly s (busTurn e s) := by
  unfold busTurn; split
  · exact BusOnly.refl s
  · split
    · exact takeEvent_busOnly e s
    · exact BusOnly.refl s

/-- With `CR.PE = 0` the bus agent does nothing at all (R145). -/
theorem busWindow_of_pe (s : State) (h : s.bus.cr.pe = false) : busWindow s = s := by
  unfold busWindow; split
  · rfl
  · rename_i d _
    have : d.next s.bus = none := by simp [RefDevice.next, enabled_false_of_pe _ _ h]
    simp [eagerFuel, eager, this]

theorem busTurn_of_pe (e : BusEvent) (s : State) (h : s.bus.cr.pe = false) : busTurn e s = s := by
  unfold busTurn; split
  · rfl
  · split
    · exact takeEvent_disabled e s (enabled_false_of_pe _ _ h)
    · rfl

/-! ## One turn of a waiting host -/

/-- A sequencer turn of a running command: one step, then the bus agent. -/
theorem sequencerTurn_of_running {s : State} (hb : s.busy = true) (hf : s.faulted = false) :
    sequencerTurn s = unlessFaulted busWindow (seqStep s) := by
  simp [sequencerTurn, hb, hf]

theorem sequencerTurn_of_stopped {s : State} (h : (s.busy && !s.faulted) = false) :
    sequencerTurn s = s := by simp [sequencerTurn, h]

theorem unlessFaulted_busWindow_busOnly (s : State) : BusOnly s (unlessFaulted busWindow s) := by
  unfold unlessFaulted; split
  · exact BusOnly.refl s
  · exact busWindow_busOnly s

/-- What carries an invariant through a command: it survives a change of the agenda, a sequencer step, a
bus event and what an event does to the reference device. -/
structure Carried (P : State → Prop) : Prop where
  agenda : ∀ s l, P s → P (s.setAgenda l)
  seqStep : ∀ s, P s → s.busy = true → s.faulted = false → P (seqStep s)
  event : ∀ e s, P s → e.enabled s.bus = true → P (takeEvent e s)
  device : ∀ s d b e, P s → s.busAgent = .reference d →
    P (s.setBusAgent (.reference (d.after s.params b e)))

section
variable {P : State → Prop} (hP : Carried P)
include hP

theorem Carried.takeEvent (e : BusEvent) (s : State) (h : P s) : P (takeEvent e s) := by
  cases he : e.enabled s.bus
  · rw [takeEvent_disabled e s he]; exact h
  · exact hP.event e s h he

theorem Carried.eager (k : Nat) (d : RefDevice) (s : State) (h : P s) (hd : s.busAgent = .reference d) :
    P (eager k d s) := by
  induction k generalizing d s with
  | zero => exact h
  | succ k ih =>
    unfold Machine.eager
    split
    · exact h
    · rename_i e _
      have ho := takeEvent_busOnly e s
      have := hP.device _ d s.bus.dr e (hP.takeEvent e s h) ((takeEvent_busAgent e s).trans hd)
      rw [ho.params] at this
      exact ih _ _ this rfl

theorem Carried.busWindow (s : State) (h : P s) : P (busWindow s) := by
  unfold Machine.busWindow; split
  · exact h
  · rename_i hd; exact hP.eager _ _ _ h hd

theorem Carried.busTurn (e : BusEvent) (s : State) (h : P s) : P (busTurn e s) := by
  unfold Machine.busTurn; split
  · exact h
  · split
    · exact hP.takeEvent e s h
    · exact h

theorem Carried.sequencerTurn (s : State) (h : P s) : P (sequencerTurn s) := by
  unfold Machine.sequencerTurn; split
  · rename_i hr
    simp only [Bool.and_eq_true, Bool.not_eq_true'] at hr
    have := hP.seqStep s h hr.1 hr.2
    unfold unlessFaulted; split
    · exact this
    · exact hP.busWindow _ this
  · exact h

theorem Carried.waitTurn (s : State) (h : P s) : P (waitTurn s) := by
  unfold Machine.waitTurn; split
  · exact hP.sequencerTurn s h
  · exact hP.sequencerTurn _ (hP.agenda _ _ h)
  · exact hP.busTurn _ _ (hP.agenda _ _ h)
  · exact hP.sequencerTurn s h
  · exact hP.sequencerTurn s h

theorem Carried.runTurns (k : Nat) (s : State) (h : P s) : P (runTurns k s) := by
  induction k generalizing s with
  | zero => exact h
  | succ k ih =>
    unfold Machine.runTurns; split
    · exact ih _ (hP.waitTurn s h)
    · exact h

theorem Carried.runCommand (s : State) (h : P s) : P (runCommand s) := hP.runTurns _ s h

end

/-! ## Every command ends -/

/-- How many turns a waiting host can still see. -/
def turnsLeft (s : State) : Nat := s.agenda.length + stepsLeft s.params s.seq

theorem stepsLeft_pos (p : Params) {q : Seq} (h : q ≠ .idle) : 0 < stepsLeft p q := by
  cases q
  · exact absurd rfl h
  all_goals (simp only [stepsLeft]; omega)

theorem sequencerTurn_cost {s : State} (hb : s.busy = true) (hf : s.faulted = false) :
    (sequencerTurn s).faulted = true ∨ turnsLeft (sequencerTurn s) + 1 ≤ turnsLeft s := by
  rw [sequencerTurn_of_running hb hf]
  have ho := unlessFaulted_busWindow_busOnly (seqStep s)
  have hk := seqStep_keeps s
  rcases seqStep_cost s hb with h | h
  · left; simpa [State.faulted, ho.fault] using h
  · right
    simp only [turnsLeft, ho.agenda, ho.params, ho.seq, hk.agenda, hk.params]
    omega

theorem waitTurn_cost {s : State} (hb : s.busy = true) (hf : s.faulted = false) :
    (waitTurn s).faulted = true ∨ turnsLeft (waitTurn s) + 1 ≤ turnsLeft s := by
  unfold waitTurn; split
  · exact sequencerTurn_cost hb hf
  · rename_i rest hq
    rcases sequencerTurn_cost (s := s.setAgenda rest) hb hf with h | h
    · exact .inl h
    · right
      simp only [turnsLeft, setAgenda_agenda, setAgenda_params, setAgenda_seq, hq, List.length_cons]
        at h ⊢
      omega
  · rename_i e rest hq
    right
    have ho := busTurn_busOnly e (s.setAgenda rest)
    simp only [turnsLeft, ho.agenda, ho.params, ho.seq, setAgenda_agenda, setAgenda_params,
      setAgenda_seq, hq, List.length_cons]
    omega
  · exact sequencerTurn_cost hb hf
  · exact sequencerTurn_cost hb hf

theorem runTurns_of_stopped (k : Nat) {s : State} (h : (s.busy && !s.faulted) = false) :
    runTurns k s = s := by cases k <;> simp [runTurns, h]

theorem runTurns_ends (k : Nat) (s : State) (h : turnsLeft s ≤ k) :
    (runTurns k s).busy = false ∨ (runTurns k s).faulted = true := by
  induction k generalizing s with
  | zero =>
    left
    by_contra hb
    have := stepsLeft_pos s.params ((busy_eq_true_iff s).1 (by simpa [runTurns] using hb))
    simp only [turnsLeft] at h; omega
  | succ k ih =>
    unfold runTurns
    cases hb : s.busy
    · simp [hb]
    · cases hf : s.faulted
      · simp only [Bool.not_false, Bool.and_true, if_true]
        rcases waitTurn_cost hb hf with h' | h'
        · right; rw [runTurns_of_stopped k (by simp [h'])]; exact h'
        · exact ih _ (by omega)
      · simp [hf]

/-- A command that has been started ends or raises a fault (R156). -/
theorem runCommand_ends (s : State) : (runCommand s).busy = false ∨ (runCommand s).faulted = true :=
  runTurns_ends _ s (Nat.le_refl _)

/-- What the bus agent cannot change, no turn changes: fields of `Keeps` other than the agenda, the bus
agent and the wire. -/
structure KeepsRun (s t : State) : Prop where
  params : t.params = s.params
  ctrlEn : t.ctrlEn = s.ctrlEn
  cmd : t.cmd = s.cmd
  host : t.host = s.host
  pe : t.bus.cr.pe = s.bus.cr.pe
  wf : Memory.wf s.mem → Memory.wf t.mem

theorem carried_keepsRun (s₀ : State) : Carried (KeepsRun s₀) where
  agenda _ _ h := ⟨h.params, h.ctrlEn, h.cmd, h.host, h.pe, h.wf⟩
  seqStep s h _ _ :=
    have k := seqStep_keeps s
    ⟨k.params.trans h.params, k.ctrlEn.trans h.ctrlEn, k.cmd.trans h.cmd, k.host.trans h.host,
      k.pe.trans h.pe, fun w => k.wf (h.wf w)⟩
  event e s h _ :=
    have k := takeEvent_busOnly e s
    ⟨k.params.trans h.params, k.ctrlEn.trans h.ctrlEn, k.cmd.trans h.cmd, k.host.trans h.host,
      k.pe.trans h.pe, fun w => k.mem ▸ h.wf w⟩
  device _ _ _ _ h _ := ⟨h.params, h.ctrlEn, h.cmd, h.host, h.pe, h.wf⟩

/-- Running a command leaves the parameters, `CTRL.EN`, `CMD`, the host and `CR.PE` alone, and keeps the
buffers' canonical form. -/
theorem runCommand_keepsRun (s : State) : KeepsRun s (runCommand s) :=
  (carried_keepsRun s).runCommand s ⟨rfl, rfl, rfl, rfl, rfl, id⟩

/-! ## Issuing a command (30_encoding R120) -/

/-- On an idle core without a fault, a command that a word encodes is latched and run. -/
theorem issue_of_idle {i : Instr} {s : State} (hw : i.wf = true) (hq : s.seq = .idle)
    (hf : s.fault = none) :
    issue i s = runCommand ((s.setCmd (encode i)).setSeq (.entry i)) := by
  have hb : s.busy = false := (busy_eq_false_iff s).2 hq
  have hff : s.faulted = false := (faulted_eq_false_iff s).2 hf
  simp [issue, unlessFaulted, hff, acceptCmd, hb, hw]

/-- On a faulted core it does nothing (60_exceptions R265). -/
theorem issue_of_faulted {i : Instr} {s : State} (hf : s.faulted = true) : issue i s = s := by
  simp [issue, unlessFaulted, hf]

/-- While a command runs it raises `F_BUSY` (60_exceptions R267). -/
theorem issue_of_busy {i : Instr} {s : State} (hb : s.busy = true) (hf : s.faulted = false) :
    issue i s = raiseFault .busy 0x00 s := by
  simp only [issue, unlessFaulted, hf, acceptCmd, hb, if_true]
  exact runTurns_of_stopped _ (by simp [State.faulted, raiseFault])

end Sys2Proof.Machine
end

