-- ==== Sys2Proof/Laws/Compensation.lean ====
section
/-! SUPPORT. What the compensation bodies can do (42_compensation R236, R240), and a command that ends in
its first step. -/

namespace Sys2Proof.Machine

/-- Everything the body of `COMP_T` can do (R236). -/
theorem runCompT_cases (s : State) :
    (s.data.cal = none ∧ runCompT s = raiseFault .unset 0x01 s) ∨
    (s.data.cal ≠ none ∧ s.data.raw = none ∧ runCompT s = raiseFault .unset 0x02 s) ∨
    ∃ c r, s.data.cal = some c ∧ s.data.raw = some r ∧
      runCompT s = s.setData { s.data with
        tfine := some (compTemp c r.t).1, temp := some (compTemp c r.t).2, tfineFresh := true } := by
  unfold runCompT
  cases hc : s.data.cal <;> cases hr : s.data.raw <;> simp

/-- Everything the body of `COMP_P` can do (R240; 60_exceptions R271). -/
theorem runCompP_cases (s : State) :
    (s.data.cal = none ∧ runCompP s = raiseFault .unset 0x01 s) ∨
    (s.data.cal ≠ none ∧ s.data.raw = none ∧ runCompP s = raiseFault .unset 0x02 s) ∨
    (s.data.cal ≠ none ∧ s.data.raw ≠ none ∧ s.data.tfineFresh = false ∧
      runCompP s = raiseFault .tfineStale 0x00 s) ∨
    (s.data.cal ≠ none ∧ s.data.raw ≠ none ∧ s.data.tfineFresh = true ∧ s.data.tfine = none ∧
      runCompP s = raiseFault .unset 0x03 s) ∨
    ∃ c r tf, s.data.cal = some c ∧ s.data.raw = some r ∧ s.data.tfineFresh = true ∧
      s.data.tfine = some tf ∧ runCompP s = s.setData { s.data with pres := some (compPres c r.p tf) } := by
  unfold runCompP
  cases hc : s.data.cal <;> cases hr : s.data.raw <;> cases hf : s.data.tfineFresh <;>
    cases ht : s.data.tfine <;> simp

/-- The sequencer's first step of `COMP_T` (10_state R39). -/
theorem seqStep_compT {s : State} (h : s.seq = .entry .compT) : seqStep s = enterCompT s.countSeqStep := by
  simp [seqStep, h, enter]

/-- The sequencer's first step of `COMP_P`. -/
theorem seqStep_compP {s : State} (h : s.seq = .entry .compP) : seqStep s = enterCompP s.countSeqStep := by
  simp [seqStep, h, enter]

end Sys2Proof.Machine
end

