-- ==== Sys2Proof/Laws/Decode.lean ====
section
/-! SUPPORT. What the decoder answers (30_encoding R115–R117): only well-formed commands, each a row of
R114 with the word's own operands. -/

namespace Sys2Proof

set_option maxRecDepth 8000 in
/-- What the rows of R114 without operands are: their command has no operands, that opcode, and passes
every check. -/
theorem plainRow_ok {opc : Byte} {i : Instr} (h : opcodeRow opc = some (.plain i)) :
    i.wf = true ∧ i.opcode = opc ∧ i.addr = 0 ∧ i.count = 0 := by
  have key : ∀ n < 256, (match opcodeRow (BitVec.ofNat 8 n) with
      | some (.plain i) =>
        i.wf && i.opcode == BitVec.ofNat 8 n && i.addr == 0 && i.count == 0
      | some (.sized _) => true
      | some .counted => true
      | none => true) = true := by decide
  have := key opc.toNat opc.isLt
  rw [BitVec.ofNat_toNat, BitVec.setWidth_eq, h] at this
  simp only [Bool.and_eq_true, beq_iff_eq] at this
  exact ⟨this.1.1.1, this.1.1.2, this.1.2, this.2⟩

/-- A row that is accepted gives a command the checks of R115 admit. -/
theorem rowInstr_wf {r : OpcodeRow} {a : Addr7} {n : BitVec 8} {i : Instr} {opc : Byte}
    (hr : opcodeRow opc = some r) (h : rowInstr r a n = .ok i) : i.wf = true := by
  unfold rowInstr at h
  split at h
  · split at h
    · injection h with h
      subst h
      exact (plainRow_ok hr).1
    · cases h
  · split at h
    · rename_i hn; injection h with h; subst h; simpa [Instr.wf] using hn
    · cases h
  · split at h
    · rename_i hn; injection h with h; subst h; simpa [Instr.wf] using hn
    · cases h
  · injection h with h; subst h; rfl

/-- Every command the decoder answers is well formed (R115). -/
theorem decode_wf {w : Word} {i : Instr} (h : decode w = .ok i) : i.wf = true := by
  unfold decode at h
  split at h
  · cases h
  · rename_i r hr
    split at h
    · exact rowInstr_wf hr h
    · cases h

/-- `enc` on numbers (R117): no field overlaps another. -/
theorem enc_toNat (opc : Byte) (a : Addr7) (n : BitVec 8) :
    (enc opc a n).toNat = n.toNat * 65536 + a.toNat * 256 + opc.toNat := by
  have h1 := opc.isLt
  have h2 := a.isLt
  have h3 := n.isLt
  simp only [enc, BitVec.toNat_ofNat]
  omega

end Sys2Proof
end

