-- ==== Sys2Proof/Laws/Host.lean ====
section
/-! SUPPORT. What a host access can do (20_memory R81–R84, 60_exceptions R265, R268): one lemma per case,
to be cited instead of unfolding the window map. -/

namespace Sys2Proof.Machine

/-- One line of the window map. -/
theorem isSome_line {c : Prop} [Decidable c] {g : Reg} {y : Option Reg} :
    (if c then some g else y).isSome = true ↔ c ∨ y.isSome = true := by
  by_cases h : c <;> simp [h]

/-- The window map names a register exactly at the mapped offsets (R81). -/
theorem regAt_isSome_iff (off : Nat) : (regAt off).isSome = true ↔ MappedOffset off := by
  unfold regAt
  by_cases h : off % 4 = 0
  · rw [if_neg (fun k => k h), isSome_line, isSome_line, isSome_line, isSome_line, isSome_line,
      isSome_line, isSome_line, isSome_line, isSome_line, isSome_line, isSome_line, isSome_line,
      isSome_line]
    have : (none : Option Reg).isSome = true ↔ False := iff_of_false Bool.false_ne_true id
    rw [this, MappedOffset, or_false]

    omega
  · rw [if_pos h]
    exact iff_of_false Bool.false_ne_true (fun k => h k.1)

/-- An access is bad exactly when it is of another width or at an unmapped offset (R82). -/
theorem accessReg_none_iff (width : Nat) (off : Word) :
    accessReg width off = none ↔ width ≠ 4 ∨ ¬MappedOffset off.toNat := by
  rw [← regAt_isSome_iff, accessReg]
  split <;> cases h : regAt off.toNat <;> simp_all

/-- On a faulted core a host write does nothing (R265). -/
theorem hostWrite_of_faulted {width : Nat} {off v : Word} {s : State} (hf : s.faulted = true) :
    hostWrite width off v s = s := by simp [hostWrite, hf]

/-- A bad write raises `F_BAD_ACCESS` and does nothing else (R268). -/
theorem hostWrite_bad {width : Nat} {off v : Word} {s : State} (hf : s.faulted = false)
    (h : accessReg width off = none) :
    hostWrite width off v s = raiseFault .badAccess (off.setWidth 8) s := by simp [hostWrite, hf, h]

/-- A write at a register is that register's write. -/
theorem hostWrite_reg {width : Nat} {off v : Word} {s : State} {g : Reg} (hf : s.faulted = false)
    (h : accessReg width off = some g) : hostWrite width off v s = writeReg g v s := by
  simp [hostWrite, hf, h]

/-- A read changes at most the number of draws and, on a core without a fault, raises one (R84, R268). -/
theorem hostRead_rest (width : Nat) (off : Word) (s : State) :
    hostRead width off s =
      (s.setDraws (hostRead width off s).draws).setFault (hostRead width off s).fault ∧
    (s.faulted = true → (hostRead width off s).fault = s.fault) ∧
    (accessReg width off ≠ none → (hostRead width off s).fault = s.fault) := by
  unfold hostRead
  cases h : accessReg width off <;> dsimp only <;> split <;>
    simp_all [State.setDraws, State.setFault, State.afterDraw, raiseFault]

/-- A read of a register that holds no unset bits changes nothing (R84). -/
theorem hostRead_set {width : Nat} {off : Word} {s : State} {g : Reg} (h : accessReg width off = some g)
    (hu : g.hasUnset s = false) : hostRead width off s = s := by simp [hostRead, h, hu]

/-- Power-on reset gives every piece of the core its reset value (70_reset R291). -/
theorem powerReset_core (s : State) :
    (powerReset s).cmd = 0 ∧ (powerReset s).outcome = .success ∧ (powerReset s).ready = false ∧
      (powerReset s).ctrlEn = false ∧ (powerReset s).fault = none ∧ (powerReset s).mem = [] ∧
      (powerReset s).seq = .idle ∧ (powerReset s).bus = Periph.reset ∧
      (powerReset s).data = Readings.reset := ⟨rfl, rfl, rfl, rfl, rfl, rfl, rfl, rfl, rfl⟩

end Sys2Proof.Machine
end

