-- ==== Sys2Proof/Laws/Legal.lean ====
section
/-! SUPPORT. The sequencer stays at program points of its own command (10_state R37): `Seq.legal` is kept
by every sequencer step. -/

namespace Sys2Proof.Machine

/-- `t`'s sequencer stands where `s`'s did (a fault was raised, 60_exceptions R263), or at a legal
program point. -/
def Lands (p : Params) (s t : State) : Prop := t.seq = s.seq ∨ t.seq.legal p

theorem lands_of_seq {p : Params} {s s' t : State} (h : s'.seq = s.seq) (k : Lands p s' t) :
    Lands p s t := k.imp (·.trans h) id

theorem lands_endCmd (p : Params) (s t : State) : Lands p s (endCmd t) := .inr trivial

theorem lands_raise (p : Params) (c : FaultCode) (i : Byte) (s : State) :
    Lands p s (raiseFault c i s) := .inl rfl

theorem lands_beginPoll {p : Params} {c : Instr} {r : Ret} {pt : Point} (s t : State)
    (hw : c.wf = true) (h : atPoint p c r pt = true) : Lands p s (beginPoll c r pt t) :=
  .inr ⟨hw, h, budget_pos p pt⟩

section Context
variable {p : Params} {c : Instr} {r : Ret}

/-- `write(a, n)` may be called from `r` while `c` runs. -/
abbrev CanWrite (p : Params) (c : Instr) (r : Ret) (a : Addr7) (n : Nat) : Prop :=
  c.wf = true ∧ ∀ pt : Point, pt.inWrite a n = true → atPoint p c r pt = true

/-- `read(a, n)`, n ≥ 1, may be called from `r` while `c` runs. -/
abbrev CanRead (p : Params) (c : Instr) (r : Ret) (a : Addr7) (n : Nat) : Prop :=
  c.wf = true ∧ ∀ pt : Point, pt.inRead a n = true → atPoint p c r pt = true

/-- `probe(a, m)` may be called from `r` while `c` runs. -/
abbrev CanProbe (p : Params) (c : Instr) (r : Ret) (a : Addr7) (m : Nat) : Prop :=
  c.wf = true ∧ ∀ pt : Point, pt.inProbe a m = true → atPoint p c r pt = true

theorem lands_callWrite {a : Addr7} {n : Nat} (s : State) (h : CanWrite p c r a n) :
    Lands p s (callWrite c r a n s) := by
  unfold callWrite; split
  · exact lands_raise ..
  · exact lands_beginPoll _ _ h.1 (h.2 _ (by simp [Point.inWrite]))

theorem lands_sendByte {a : Addr7} {n i : Nat} (s : State) (h : CanWrite p c r a n) :
    Lands p s (sendByte c r a n i s) := by
  unfold sendByte; split
  · split
    · exact lands_beginPoll _ _ h.1 (h.2 _ (by simpa [Point.inWrite]))
    · exact lands_raise ..
  · exact lands_beginPoll _ _ h.1 (h.2 _ rfl)

theorem lands_callRead {a : Addr7} {n : Nat} (s t : State) (h : CanRead p c r a n) (hn : 0 < n) :
    Lands p s (callRead c r a n t) :=
  lands_beginPoll _ _ h.1 (h.2 _ (by simpa [Point.inRead]))

theorem lands_regWrite (ret : Ret) (x v : Byte) (s : State) (h : CanWrite p c ret Config.devAddr 2) :
    Lands p s (callRegWrite c ret x v s) := lands_of_seq (s' := (s.putTx 0 x).putTx 1 v) rfl (lands_callWrite _ h)

theorem lands_regRead (ret : Ret) (x : Byte) (s : State) (h : CanWrite p c ret Config.devAddr 1) :
    Lands p s (callRegRead c ret x s) := lands_of_seq (s' := s.putTx 0 x) rfl (lands_callWrite _ h)

theorem seq_runCompT (s : State) : (runCompT s).seq = s.seq := by
  unfold runCompT; split <;> rfl

theorem seq_runCompP (s : State) : (runCompP s).seq = s.seq := by
  unfold runCompP; split
  · rfl
  · rfl
  · split
    · rfl
    · split <;> rfl

theorem lands_unlessEnd (s t : State) (h : t.seq = s.seq) : Lands p s (unlessFaulted endCmd t) := by
  unfold unlessFaulted; split
  · exact .inl h
  · exact lands_endCmd ..

theorem lands_enterCompT (s : State) : Lands p s (enterCompT s) := lands_unlessEnd _ _ (seq_runCompT s)

theorem lands_enterCompP (s : State) : Lands p s (enterCompP s) := lands_unlessEnd _ _ (seq_runCompP s)

theorem lands_acquireRest (s : State) : Lands p s (acquireRest s) := by
  refine lands_unlessEnd _ _ ?_
  unfold unlessFaulted; split
  · exact seq_runCompT s
  · exact (seq_runCompP _).trans (seq_runCompT s)

theorem seq_calUpdate (o : TxOutcome) (s : State) : (calUpdate o s).seq = s.seq := by cases o <;> rfl

theorem seq_rawUpdate (o : TxOutcome) (s : State) : (rawUpdate o s).seq = s.seq := by cases o <;> rfl

theorem seq_idUpdate (o : TxOutcome) (s : State) : (idUpdate o s).seq = s.seq := by cases o <;> rfl

theorem lands_calDone (hc : c = .readCal ∨ c = .init) (o : TxOutcome) (s : State) :
    Lands p s (calDone c o s) := by
  unfold calDone; split
  · rename_i hi
    subst hi
    exact lands_of_seq (seq_calUpdate o s)
      (lands_regWrite _ _ _ _ ⟨rfl, fun pt h => by simpa [atPoint, Ret.points] using h⟩)
  · exact lands_endCmd ..

theorem lands_rawDone (o : TxOutcome) (s : State) : Lands p s (rawDone c o s) := by
  unfold rawDone; split
  · exact lands_of_seq (seq_rawUpdate o s) (lands_acquireRest _)
  · exact lands_endCmd ..

theorem lands_idDone (hc : c = .init) (o : TxOutcome) (s : State) : Lands p s (idDone c o s) := by
  subst hc
  unfold idDone
  dsimp only
  split
  · exact lands_of_seq (seq_idUpdate o s)
      (lands_regRead _ _ _ ⟨rfl, fun pt h => by simpa [atPoint, Ret.points] using h⟩)
  · exact lands_endCmd ..

theorem lands_returnProbe (hw : c.wf = true) (h : r = .i1 → c = .init) (b : Bool) (s : State) :
    Lands p s (returnProbe c r b s) := by
  cases r <;> first | exact lands_endCmd _ s (s.setReady b) | skip
  have hc := h rfl
  subst hc
  unfold returnProbe; dsimp only; split
  · exact lands_of_seq rfl
      (lands_regRead _ _ _ ⟨rfl, fun pt h => by simpa [atPoint, Ret.points] using h⟩)
  · exact lands_endCmd ..

/-- Which command a sub-sequence's return point belongs to. -/
theorem c_of_write {o : TxOutcome} (h : atPoint p c r (.wStop o) = true) :
    (r = .c1Ptr → c = .readCal ∨ c = .init) ∧ (r = .g1 → c = .configure ∨ c = .init) ∧
      (r = .m1Ptr → c = .readRaw ∨ c = .acquire) ∧ (r = .i3Ptr → c = .init) ∧
      (r ≠ .c1Burst ∧ r ≠ .m1Burst ∧ r ≠ .i3Burst ∧ r ≠ .i1) := by
  cases c <;> cases r <;> simp_all [atPoint, Ret.points, Point.inWrite, Point.inRead, Point.inProbe]

theorem lands_returnWrite (hw : c.wf = true) (o : TxOutcome) (s : State)
    (h : atPoint p c r (.wStop o) = true) : Lands p s (returnWrite c r o s) := by
  obtain ⟨hc1, hg1, hm1, hi3, -⟩ := c_of_write h
  cases r <;> first | exact lands_endCmd _ s (s.setOutcome o) | skip
  all_goals unfold returnWrite; dsimp only
  · have hc := hc1 rfl
    split
    · refine lands_callRead _ _ ⟨hw, fun pt hpt => ?_⟩ (by decide)
      rcases hc with rfl | rfl <;> simpa [atPoint, Ret.points] using hpt
    · exact lands_of_seq (s' := s.setOutcome o) rfl (lands_calDone hc _ _)
  · refine lands_of_seq (s' := s.setOutcome o) rfl (lands_regWrite _ _ _ _ ⟨hw, fun pt hpt => ?_⟩)
    rcases hg1 rfl with rfl | rfl <;> simpa [atPoint, Ret.points] using hpt
  · split
    · refine lands_callRead _ _ ⟨hw, fun pt hpt => ?_⟩ (by decide)
      rcases hm1 rfl with rfl | rfl <;> simpa [atPoint, Ret.points] using hpt
    · exact lands_of_seq (s' := s.setOutcome o) rfl (lands_rawDone _ _)
  · have hc := hi3 rfl
    split
    · refine lands_callRead _ _ ⟨hw, fun pt hpt => ?_⟩ (by decide)
      subst hc; simpa [atPoint, Ret.points] using hpt
    · exact lands_of_seq (s' := s.setOutcome o) rfl (lands_idDone hc _ _)

theorem lands_returnRead (o : TxOutcome) (s : State)
    (hc : r = .c1Burst → c = .readCal ∨ c = .init) (hi : r = .i3Burst → c = .init) :
    Lands p s (returnRead c r o s) := by
  cases r <;> first | exact lands_endCmd _ s (s.setOutcome o) | skip
  · exact lands_of_seq (s' := s.setOutcome o) rfl (lands_calDone (hc rfl) _ _)
  · exact lands_of_seq (s' := s.setOutcome o) rfl (lands_rawDone _ _)
  · exact lands_of_seq (s' := s.setOutcome o) rfl (lands_idDone (hi rfl) _ _)

/-! ## From one program point to the next -/

/-- A poll belongs to a bare `start()` or `stop()`, or to a `write`, a `read` or a `probe`, all of whose
polls the sequencer may then stand at. -/
theorem site {pt : Point} (h : atPoint p c r pt = true) :
    (pt = .s2 ∨ pt = .p2) ∨
      (∃ a n, pt.inWrite a n = true ∧ ∀ qt : Point, qt.inWrite a n = true → atPoint p c r qt = true) ∨
      (∃ a n, pt.inRead a n = true ∧ ∀ qt : Point, qt.inRead a n = true → atPoint p c r qt = true) ∨
      (∃ a m, pt.inProbe a m = true ∧ ∀ qt : Point, qt.inProbe a m = true → atPoint p c r qt = true) := by
  cases c <;> cases r <;> first
    | exact (Bool.false_ne_true h).elim
    | exact .inr (.inl ⟨_, _, h, fun _ k => k⟩)
    | exact .inr (.inr (.inl ⟨_, _, h, fun _ k => k⟩))
    | exact .inr (.inr (.inr ⟨_, _, h, fun _ k => k⟩))
    | exact .inl (.inl (by simpa [atPoint] using h))
    | exact .inl (.inr (by simpa [atPoint] using h))

/-- At a poll of a `write`, the sequencer may stand at every poll of that call. -/
theorem site_write {pt : Point} {a : Addr7} {n : Nat} (h : atPoint p c r pt = true)
    (hpt : pt = .w1 a n ∨ pt = .w4 a n ∨ ∃ i, pt = .w10 a n i) (hw : c.wf = true) :
    CanWrite p c r a n := by
  rcases site h with (rfl | rfl) | ⟨b, m, hin, hall⟩ | ⟨b, m, hin, -⟩ | ⟨b, m, hin, -⟩ <;>
    rcases hpt with hpt | hpt | ⟨i, hpt⟩ <;> first
      | (cases hpt; done)
      | (subst hpt; exact (Bool.false_ne_true hin).elim)
      | (subst hpt
         simp only [Point.inWrite, Bool.and_eq_true, beq_iff_eq] at hin
         obtain ⟨rfl, rfl⟩ := hin
         exact ⟨hw, hall⟩)
      | (subst hpt
         simp only [Point.inWrite, Bool.and_eq_true, beq_iff_eq] at hin
         obtain ⟨⟨rfl, rfl⟩, -⟩ := hin
         exact ⟨hw, hall⟩)

/-- At a poll of a `read`, the sequencer may stand at every poll of that call, and n ≥ 1. -/
theorem site_read {pt : Point} {a : Addr7} {n : Nat} (h : atPoint p c r pt = true)
    (hpt : pt = .rd2 a n ∨ pt = .rd5 a n ∨ ∃ i, pt = .rd11 a n i) (hw : c.wf = true) :
    CanRead p c r a n ∧ 0 < n := by
  rcases site h with (rfl | rfl) | ⟨b, m, hin, -⟩ | ⟨b, m, hin, hall⟩ | ⟨b, m, hin, -⟩ <;>
    rcases hpt with hpt | hpt | ⟨i, hpt⟩ <;> first
      | (cases hpt; done)
      | (subst hpt; exact (Bool.false_ne_true hin).elim)
      | (subst hpt
         simp only [Point.inRead, Bool.and_eq_true, beq_iff_eq, decide_eq_true_eq] at hin
         obtain ⟨⟨rfl, rfl⟩, hn⟩ := hin
         exact ⟨⟨hw, hall⟩, by omega⟩)

/-- At a poll of a `probe`, the sequencer may stand at every poll of that call, and the attempt is one
of its own. -/
theorem site_probe {pt : Point} {a : Addr7} {m k : Nat} (h : atPoint p c r pt = true)
    (hpt : pt = .q2 a m k ∨ pt = .q5 a m k ∨ ∃ b, pt = .qStop a m k b) (hw : c.wf = true) :
    CanProbe p c r a m ∧ 1 ≤ k ∧ k ≤ m := by
  rcases site h with (rfl | rfl) | ⟨b, l, hin, -⟩ | ⟨b, l, hin, -⟩ | ⟨b, l, hin, hall⟩ <;>
    rcases hpt with hpt | hpt | ⟨i, hpt⟩ <;> first
      | (cases hpt; done)
      | (subst hpt; exact (Bool.false_ne_true hin).elim)
      | (subst hpt
         simp only [Point.inProbe, Bool.and_eq_true, beq_iff_eq, decide_eq_true_eq] at hin
         obtain ⟨⟨rfl, rfl⟩, hk⟩ := hin
         exact ⟨⟨hw, hall⟩, hk⟩)

/-- At the byte poll of a `write` or a `read` the byte is one of the transfer's. -/
theorem site_byte {a : Addr7} {n i : Nat} :
    (atPoint p c r (.w10 a n i) = true → i < n) ∧ (atPoint p c r (.rd11 a n i) = true → i < n) := by
  constructor <;> intro h <;>
    rcases site h with (h | h) | ⟨b, m, hin, -⟩ | ⟨b, m, hin, -⟩ | ⟨b, m, hin, -⟩ <;> first
      | cases h
      | exact (Bool.false_ne_true hin).elim
      | (simp only [Point.inWrite, Point.inRead, Bool.and_eq_true, beq_iff_eq, decide_eq_true_eq] at hin
         omega)

/-- Which command a return point belongs to. -/
theorem command_of_ret {pt : Point} (h : atPoint p c r pt = true) :
    (r = .i1 → c = .init) ∧ (r = .i3Burst → c = .init) ∧
      (r = .c1Burst → c = .readCal ∨ c = .init) := by
  cases c <;> cases r <;> first
    | exact (Bool.false_ne_true h).elim
    | simp

theorem lands_probeAttempt {a : Addr7} {m k : Nat} (s t : State) (h : CanProbe p c r a m)
    (hk : k < m) : Lands p s (probeAttempt c r a m (k + 1) t) :=
  lands_beginPoll _ _ h.1 (h.2 _ (by simp [Point.inProbe]; omega))

theorem lands_nextAttempt {a : Addr7} {m k : Nat} (s : State) (h : CanProbe p c r a m)
    (hi : r = .i1 → c = .init) : Lands p s (nextAttempt c r a m k s) := by
  unfold nextAttempt; split
  · rename_i hk; exact lands_probeAttempt _ _ h hk
  · exact lands_returnProbe h.1 hi _ _

theorem lands_callProbe {a : Addr7} {m : Nat} (s : State) (h : CanProbe p c r a m)
    (hi : r = .i1 → c = .init) : Lands p s (callProbe c r a m s) := by
  unfold callProbe; split
  · exact lands_returnProbe h.1 hi _ _
  · exact lands_probeAttempt _ _ h (by omega)

theorem lands_stopW {a : Addr7} {n : Nat} (o : TxOutcome) (s t : State) (h : CanWrite p c r a n) :
    Lands p s (callStop c r (.wStop o) t) := lands_beginPoll _ _ h.1 (h.2 _ rfl)

theorem lands_stopR {a : Addr7} {n : Nat} {o : TxOutcome} (s t : State) (h : CanRead p c r a n)
    (ho : o ≠ .success) : Lands p s (callStop c r (.rdStop o) t) :=
  lands_beginPoll _ _ h.1 (h.2 _ (by simpa [Point.inRead] using ho))

theorem lands_stopQ {a : Addr7} {m k : Nat} (b : Bool) (s t : State) (h : CanProbe p c r a m)
    (hk : 1 ≤ k ∧ k ≤ m) : Lands p s (callStop c r (.qStop a m k b) t) :=
  lands_beginPoll _ _ h.1 (h.2 _ (by simpa [Point.inProbe] using hk))

theorem lands_resume {pt : Point} (res : Option Obs) (s : State) (hw : c.wf = true)
    (h : atPoint p c r pt = true) : Lands p s (resume c r pt res s) := by
  obtain ⟨hi1, hi3, hc1⟩ := command_of_ret h
  cases pt <;> simp only [resume]
  case s2 => exact lands_endCmd ..
  case p2 => exact lands_endCmd ..
  case w1 a n =>
    have hc := site_write h (.inl rfl) hw
    split
    · exact lands_beginPoll _ _ hw (hc.2 _ (by simp [Point.inWrite]))
    · exact lands_stopW _ _ _ hc
  case w4 a n =>
    have hc := site_write h (.inr (.inl rfl)) hw
    unfold afterW4; split
    · exact lands_stopW _ _ _ hc
    · split
      · exact lands_stopW _ _ _ hc
      · exact lands_of_seq (s' := s.onBus Periph.clearStatus) rfl (lands_sendByte _ hc)
  case w10 a n i =>
    have hc := site_write h (.inr (.inr ⟨i, rfl⟩)) hw
    split
    · exact lands_sendByte _ hc
    · exact lands_stopW _ _ _ hc
  case wStop o => exact lands_returnWrite hw o s h
  case rd2 a n =>
    obtain ⟨hc, hn⟩ := site_read h (.inl rfl) hw
    split
    · exact lands_beginPoll _ _ hw (hc.2 _ (by simpa [Point.inRead]))
    · exact lands_stopR _ _ hc (by decide)
  case rd5 a n =>
    obtain ⟨hc, hn⟩ := site_read h (.inr (.inl rfl)) hw
    unfold afterRd5; split
    · exact lands_stopR _ _ hc (by decide)
    · split
      · exact lands_stopR _ _ hc (by decide)
      · exact lands_beginPoll _ _ hw (hc.2 _ (by simpa [Point.inRead]))
  case rd11 a n i =>
    obtain ⟨hc, -⟩ := site_read h (.inr (.inr ⟨i, rfl⟩)) hw
    unfold afterRd11; split
    · exact lands_stopR _ _ hc (by decide)
    · split
      · exact lands_beginPoll _ _ hw (hc.2 _ (by simpa [Point.inRead]))
      · refine lands_of_seq (s' := takeByte n i s) ?_ (lands_returnRead _ _ hc1 hi3)
        unfold takeByte; dsimp only; split <;> rfl
  case rdStop o => exact lands_returnRead _ _ hc1 hi3
  case q2 a m k =>
    obtain ⟨hc, hk⟩ := site_probe h (.inl rfl) hw
    split
    · exact lands_beginPoll _ _ hw (hc.2 _ (by simpa [Point.inProbe] using hk))
    · exact lands_nextAttempt _ hc hi1
  case q5 a m k =>
    obtain ⟨hc, hk⟩ := site_probe h (.inr (.inl rfl)) hw
    unfold afterQ5; split
    · exact lands_stopQ _ _ _ hc hk
    · split
      · exact lands_stopQ _ _ _ hc hk
      · exact lands_stopQ _ _ _ hc hk
  case qStop a m k b =>
    obtain ⟨hc, -⟩ := site_probe h (.inr (.inr ⟨b, rfl⟩)) hw
    split
    · exact lands_returnProbe hw hi1 _ _
    · exact lands_nextAttempt _ hc hi1

end Context

theorem lands_enter {c : Instr} (s : State) (hw : c.wf = true) : Lands s.params s (enter c s) := by
  cases c <;> simp only [enter]
  case start => exact lands_beginPoll _ _ rfl rfl
  case stop => exact lands_beginPoll _ _ rfl rfl
  case write a n => exact lands_callWrite _ ⟨hw, fun _ h => h⟩
  case read a n =>
    split
    · exact lands_endCmd ..
    · rename_i h
      refine lands_callRead _ _ ⟨hw, fun _ h => h⟩ (Nat.pos_of_ne_zero fun h0 => h ?_)
      exact BitVec.eq_of_toNat_eq (by simpa using h0)
  case probe a m => exact lands_callProbe _ ⟨rfl, fun _ h => h⟩ (by simp)
  case readCal => exact lands_regRead _ _ _ ⟨rfl, fun _ h => h⟩
  case configure => exact lands_regWrite _ _ _ _ ⟨rfl, fun _ h => h⟩
  case readRaw => exact lands_regRead _ _ _ ⟨rfl, fun _ h => h⟩
  case init => exact lands_callProbe _ ⟨rfl, fun _ h => h⟩ (by simp)
  case compT => exact lands_enterCompT s
  case compP => exact lands_enterCompP s
  case acquire => exact lands_regRead _ _ _ ⟨rfl, fun _ h => h⟩

/-- A sequencer step from a legal program point goes to one (10_state R40). -/
theorem seqStep_legal (s : State) (h : s.seq.legal s.params) :
    (seqStep s).seq.legal (seqStep s).params := by
  rw [(seqStep_keeps s).params]
  have of_lands : ∀ {t : State}, Lands s.params s t → t.seq.legal s.params :=
    fun hl => hl.elim (fun e => e ▸ h) id
  unfold seqStep
  split
  · exact h
  · rename_i c hq
    simp only [hq, Seq.legal] at h
    exact of_lands (lands_of_seq (s' := s.countSeqStep) rfl (lands_enter s.countSeqStep h))
  · rename_i c r pt j hq
    simp only [hq, Seq.legal] at h
    unfold observeStep
    dsimp only
    split
    · rename_i hcond
      refine ⟨h.1, h.2.1, fun obs ho => ?_⟩
      injection ho with ho
      subst ho; exact hcond
    · split
      · rename_i hj; exact ⟨h.1, h.2.1, hj⟩
      · exact ⟨h.1, h.2.1, fun obs ho => by cases ho⟩
  · rename_i c r pt res hq
    simp only [hq, Seq.legal] at h
    exact of_lands (lands_of_seq (s' := s.countSeqStep) rfl
      (lands_resume res s.countSeqStep h.1 h.2.1))

end Sys2Proof.Machine
end

