-- ==== Sys2Proof/Laws/PerInstr.lean ====
section
/-! SUPPORT. The per-instruction family `Encoding`: what the word of each command looks like (30_encoding
R112, R114, R115). -/

namespace Sys2Proof.Laws.Encoding

/-- The word of a command: its bits as R117 composes them, the opcode of R114 in bits 7:0, the reserved
fields 0 (R112); and a command that takes no operands has no other bit set. -/
def Statement (i : Instr) : Prop :=
  (encode i).toNat = i.count.toNat * 65536 + i.addr.toNat * 256 + i.opcode.toNat ∧
    fieldOpc (encode i) = i.opcode ∧ fieldRsv0 (encode i) = 0 ∧ fieldRsv1 (encode i) = 0 ∧
    (opcodeRow i.opcode = some (.plain i) → encode i = i.opcode.setWidth 32)

/-- Every field of an encoded word is where R112 puts it. -/
theorem fields (opc : Byte) (a : Addr7) (n : BitVec 8) :
    fieldOpc (enc opc a n) = opc ∧ fieldRsv0 (enc opc a n) = 0 ∧ fieldRsv1 (enc opc a n) = 0 := by
  have h1 := opc.isLt
  have h2 := a.isLt
  have h3 := n.isLt
  have z1 : (0 : BitVec 1).toNat = 0 := rfl
  have z8 : (0 : BitVec 8).toNat = 0 := rfl
  refine ⟨BitVec.eq_of_toNat_eq ?_, BitVec.eq_of_toNat_eq ?_, BitVec.eq_of_toNat_eq ?_⟩ <;>
    simp only [fieldOpc, fieldRsv0, fieldRsv1, BitVec.extractLsb'_toNat, enc_toNat,
      Nat.shiftRight_eq_div_pow, z1, z8] <;>
    omega

/-- The statement of a command that takes no operands. -/
theorem plain {i : Instr} (ha : i.addr = 0) (hn : i.count = 0) : Statement i := by
  refine ⟨enc_toNat .., (fields ..).1, (fields ..).2.1, (fields ..).2.2, fun _ => ?_⟩
  apply BitVec.eq_of_toNat_eq
  have h := i.opcode.isLt
  rw [encode, ha, hn, enc_toNat, BitVec.toNat_setWidth]
  have h0 : (0 : Addr7).toNat = 0 ∧ (0 : BitVec 8).toNat = 0 := ⟨rfl, rfl⟩
  omega

/-- The statement of a command with operands. -/
theorem sized {i : Instr} (h : opcodeRow i.opcode ≠ some (.plain i)) : Statement i :=
  ⟨enc_toNat .., (fields ..).1, (fields ..).2.1, (fields ..).2.2, fun k => absurd k h⟩

theorem start : Statement .start := plain rfl rfl
theorem stop : Statement .stop := plain rfl rfl
theorem write (a : Addr7) (n : BitVec 8) : Statement (.write a n) := sized (by simp [opcodeRow, Instr.opcode])
theorem read (a : Addr7) (n : BitVec 8) : Statement (.read a n) := sized (by simp [opcodeRow, Instr.opcode])
theorem probe (a : Addr7) (m : BitVec 8) : Statement (.probe a m) := sized (by simp [opcodeRow, Instr.opcode])
theorem readCal : Statement .readCal := plain rfl rfl
theorem configure : Statement .configure := plain rfl rfl
theorem readRaw : Statement .readRaw := plain rfl rfl
theorem init : Statement .init := plain rfl rfl
theorem compT : Statement .compT := plain rfl rfl
theorem compP : Statement .compP := plain rfl rfl
theorem acquire : Statement .acquire := plain rfl rfl

end Sys2Proof.Laws.Encoding
end

