-- ==== Sys2Proof/Laws/Step.lean ====
section
/-! SUPPORT. What one step of the machine can do: every step answers a next state, and an invariant of
the parts is an invariant of the step. -/

namespace Sys2Proof.Machine

/-- The meaning of every command is its issue (30_encoding R120). -/
theorem exec_eq_issue (i : Instr) (s : State) : exec i s = .next (issue i s) := by
  cases i <;> rfl

/-- The state after the step. -/
def stepState (s : State) : State :=
  match nextMove s with
  | .moved t => t
  | .run i t => afterIssue (issue i t)

/-- Every step answers a next state: the spec's faults are states (60_exceptions R263). -/
theorem step_eq (s : State) : step s = .next (stepState s) := by
  unfold step stepMove stepState
  cases nextMove s <;> simp [exec_eq_issue]

/-- A command accepted from a word is well formed (30_encoding R115). -/
theorem cmdOf_wf {w : Word} {i : Instr} (h : cmdOf w = some i) : i.wf = true := by
  unfold cmdOf at h
  split at h
  · rename_i j hj; injection h with h; subst h; exact decode_wf hj
  · cases h

/-- What makes a property of states an invariant of the step: it is carried through a command, and it
survives what the host and a reset can do. -/
structure Invariant (P : State → Prop) : Prop extends Carried P where
  reset : ∀ s, P s → P (powerReset s)
  goto : ∀ s pc, P s → P (s.hostGoto pc)
  await : ∀ s, P s → P s.hostAwait
  var : ∀ s x v, P s → P (s.setVar x v)
  draws : ∀ s n, P s → P (s.setDraws n)
  raised : ∀ c i s, P s → s.faulted = false → P (raiseFault c i s)
  cmd : ∀ s w, P s → s.busy = false → P (s.setCmd w)
  entry : ∀ s i, P s → s.busy = false → s.faulted = false → i.wf = true → P (s.setSeq (.entry i))
  ctrl : ∀ s b, P s → s.busy = false → P ((s.setCtrlEn b).onBus (·.setPE b))
  txByte : ∀ s j b, P s → s.busy = false → P (s.putTx j b)

section
variable {P : State → Prop} (hP : Invariant P)
include hP

theorem Invariant.accept {w : Word} {c : Option Instr} {s : State} (h : P s) (hf : s.faulted = false)
    (hc : ∀ i, c = some i → i.wf = true) : P (acceptCmd w c s) := by
  unfold acceptCmd
  cases hb : s.busy
  · have hs := hP.cmd s w h hb
    simp only [Bool.false_eq_true, if_false]
    cases c with
    | none => exact hP.raised _ _ _ hs hf
    | some i => exact hP.entry _ _ hs hb hf (hc i rfl)
  · exact hP.raised _ _ _ h hf

theorem Invariant.issue {i : Instr} {s : State} (h : P s) : P (issue i s) := by
  unfold Machine.issue unlessFaulted
  cases hf : s.faulted
  · refine hP.toCarried.runCommand _ (hP.accept h hf ?_)
    intro j hj
    split at hj
    · injection hj with hj; subst hj; assumption
    · cases hj
  · exact h

theorem Invariant.hostRead {width : Nat} {off : Word} {s : State} (h : P s) :
    P (hostRead width off s) := by
  unfold Machine.hostRead
  split
  · split
    · exact hP.draws _ _ h
    · exact hP.raised _ _ _ (hP.draws _ _ h) (by simp_all [State.faulted, State.afterDraw])
  · split
    · exact hP.draws _ _ h
    · exact h

theorem Invariant.hostWrite {width : Nat} {off v : Word} {s : State} (h : P s) :
    P (hostWrite width off v s) := by
  unfold Machine.hostWrite
  split
  · exact h
  · rename_i hf
    have hf : s.faulted = false := by simpa using hf
    split
    · exact hP.raised _ _ _ h hf
    · rename_i g _
      cases g <;> simp only [writeReg] <;> first | exact h | skip
      · exact hP.accept h hf fun i hi => cmdOf_wf hi
      · unfold writeCtrl; split
        · exact hP.raised _ _ _ h hf
        · exact hP.ctrl _ _ h (by simp_all)
      · unfold writeTxWord; split
        · exact hP.raised _ _ _ h hf
        · rename_i hb
          have hb : s.busy = false := by simpa using hb
          exact hP.txByte _ _ _ (hP.txByte _ _ _ (hP.txByte _ _ _ (hP.txByte _ _ _ h hb) hb) hb) hb

theorem Invariant.hostNext {s : State} (h : P s) : P s.hostNext := hP.goto _ _ h

theorem Invariant.afterIssue {s : State} (h : P s) : P (afterIssue s) := by
  unfold Machine.afterIssue; split
  · exact hP.await _ h
  · exact hP.hostNext h

/-- An invariant holds in the state a host line leaves, or in the one its command starts from. -/
theorem Invariant.hostLine {op : HostOp} {s : State} (h : P s) :
    match hostLine op s with
    | .moved t => P t
    | .run _ t => P t := by
  cases op <;> simp only [Machine.hostLine]
  case write => exact hP.hostNext (hP.hostWrite h)
  case read => exact hP.hostNext (hP.var _ _ _ (hP.hostRead h))
  case wait =>
    split
    · exact h
    · exact hP.hostNext h
  case ifEq =>
    split
    · exact hP.goto _ _ h
    · exact hP.hostNext h
  case ifNe =>
    split
    · exact hP.hostNext h
    · exact hP.goto _ _ h
  case halt => exact h
  case issue w =>
    cases s.host.waiting with
    | true => exact hP.afterIssue h
    | false =>
      cases cmdOf w with
      | none => exact hP.afterIssue (hP.hostWrite h)
      | some i => exact h

theorem Invariant.nextMove {s : State} (h : P s) :
    match nextMove s with
    | .moved t => P t
    | .run _ t => P t := by
  have ht : ∀ {s : State}, P s → match hostTurn s with
      | .moved t => P t
      | .run _ t => P t := by
    intro s h
    unfold hostTurn
    cases hop : s.host.prog[s.host.pc]? with
    | none => exact h
    | some op => exact hP.hostLine h
  unfold Machine.nextMove
  cases ha : s.agenda with
  | nil =>
    dsimp only
    cases (s.busy && !s.faulted)
    · exact ht h
    · exact hP.toCarried.sequencerTurn _ h
  | cons t rest =>
    cases t
    · exact hP.toCarried.sequencerTurn _ (hP.agenda _ _ h)
    · exact hP.toCarried.busTurn _ _ (hP.agenda _ _ h)
    · exact ht (hP.agenda _ _ h)
    · exact hP.reset _ (hP.agenda _ _ h)

/-- The packaged induction step: from every state that meets the invariant, a step gives one that does. -/
theorem Invariant.step {s t : State} (h : P s) (hs : step s = .next t) : P t := by
  rw [step_eq] at hs
  injection hs with hs
  subst hs
  have hm := hP.nextMove h
  unfold stepState
  cases hmv : Machine.nextMove s <;> simp only [hmv] at hm ⊢
  · exact hP.afterIssue (hP.issue hm)
  · exact hm

end

end Sys2Proof.Machine
end

