-- ==== Sys2Proof/Machine/Assembler.lean ====
section
/-! DEFINITION. The assembler syntax of 30_encoding R118: one command per line, the mnemonic, then for
`WRITE`, `READ` and `PROBE` the operands `a, n`; numbers decimal or `0x` hexadecimal; comments from `;`.
An operand out of range is refused. -/

namespace Sys2Proof.Machine

/-- The characters before a comment. -/
def dropComment : List Char → List Char
  | [] => []
  | c :: r => if c = ';' then [] else c :: dropComment r

/-- Splits a line at blanks; a comma is a token of its own. `cur` is the token being read, reversed. -/
def tokens : List Char → List Char → List (List Char)
  | [], cur => if cur = [] then [] else [cur.reverse]
  | c :: r, cur =>
    if c = ' ' ∨ c = '\t' then (if cur = [] then tokens r [] else cur.reverse :: tokens r [])
    else if c = ',' then
      (if cur = [] then [','] :: tokens r [] else cur.reverse :: [','] :: tokens r [])
    else tokens r (c :: cur)

/-- The value of a digit in a base up to 16. -/
def digitVal (base : Nat) (c : Char) : Option Nat :=
  let n := c.toNat
  let v :=
    if 48 ≤ n ∧ n ≤ 57 then some (n - 48)
    else if 97 ≤ n ∧ n ≤ 102 then some (n - 87)
    else if 65 ≤ n ∧ n ≤ 70 then some (n - 55)
    else none
  match v with
  | some d => if d < base then some d else none
  | none => none

/-- Digits read on from the value `acc`. -/
def digitsFrom (base : Nat) : List Char → Nat → Option Nat
  | [], acc => some acc
  | c :: r, acc =>
    match digitVal base c with
    | some d => digitsFrom base r (acc * base + d)
    | none => none

/-- A number: `0x` and hexadecimal digits, or decimal digits. -/
def number : List Char → Option Nat
  | '0' :: 'x' :: c :: r => digitsFrom 16 (c :: r) 0
  | c :: r => digitsFrom 10 (c :: r) 0
  | [] => none

/-- A command without operands by its mnemonic (R114). -/
def plainMnemonic (t : List Char) : Option Instr :=
  if t = "START".toList then some .start
  else if t = "STOP".toList then some .stop
  else if t = "READ_CAL".toList then some .readCal
  else if t = "CONFIGURE".toList then some .configure
  else if t = "READ_RAW".toList then some .readRaw
  else if t = "INIT".toList then some .init
  else if t = "COMP_T".toList then some .compT
  else if t = "COMP_P".toList then some .compP
  else if t = "ACQUIRE".toList then some .acquire
  else none

/-- A command with operands `a, n`, each in its range (R118). -/
def operandMnemonic (t : List Char) (a n : Nat) : Option Instr :=
  if 0x7F < a ∨ 255 < n then none
  else if t = "WRITE".toList then
    if n ≤ Config.bufLen then some (.write (BitVec.ofNat 7 a) (BitVec.ofNat 8 n)) else none
  else if t = "READ".toList then
    if n ≤ Config.bufLen then some (.read (BitVec.ofNat 7 a) (BitVec.ofNat 8 n)) else none
  else if t = "PROBE".toList then some (.probe (BitVec.ofNat 7 a) (BitVec.ofNat 8 n))
  else none

/-- One line of command syntax, `none` where it is refused (R118). A blank or comment-only line holds no
command; R118 does not say whether it is accepted, and DESIGN CHOICE (log 19, safe): the answer is `none`
for it too. -/
def assemble (line : String) : Option Instr :=
  match tokens (dropComment line.toList) [] with
  | [t] => plainMnemonic t
  | [t, a, [','], n] =>
    match number a, number n with
    | some a, some n => operandMnemonic t a n
    | _, _ => none
  | _ => none

end Sys2Proof.Machine
end

