-- ==== Sys2Proof/Tests/Slice0.lean ====
section
/-! SUPPORT. Tests by evaluation, their expected values from spec/95_test_vectors.md (E, T, S and P are its
vectors), and for each statement with hypotheses a state and operands that meet them. -/

open Sys2Proof Sys2Proof.Machine

namespace Sys2Proof.Tests

/-! ## Small states -/

/-- The parameters of 95 section 4, every budget 2. -/
def pars : Params :=
  { startMore := 1, stopMore := 1, addrMore := 1, btfMore := 1, rxneMore := 1, readyAttempts := 3,
    regId := 0xD0, regCal := 0x88, regCtrlMeas := 0xF4, regConfig := 0xF5, regData := 0xF7 }

/-- The calibration bytes of E1 at `DEVREG[0x88..0x9F]`, the zero at 0x97 unlisted. -/
def calCells : List Host.Cell :=
  [(0x88, 0x70), (0x89, 0x6B), (0x8A, 0x43), (0x8B, 0x67), (0x8C, 0x18), (0x8D, 0xFC),
   (0x8E, 0x7D), (0x8F, 0x8E), (0x90, 0x43), (0x91, 0xD6), (0x92, 0xD0), (0x93, 0x0B)] ++
  [(0x94, 0x27), (0x95, 0x0B), (0x96, 0x8C), (0x98, 0xF9), (0x99, 0xFF), (0x9A, 0x8C),
   (0x9B, 0x3C), (0x9C, 0xF8), (0x9D, 0xC6), (0x9E, 0x70), (0x9F, 0x17)]

/-- The reference device of 95, with `id` at `DEVREG[0xD0]` and its pointer at `p`. -/
def dev (id p : Byte) : RefDevice :=
  { regs := calCells ++ [(0xD0, id)] ++
      [(0xF7, 0x65), (0xF8, 0x5A), (0xF9, 0xC0), (0xFA, 0x7E), (0xFB, 0xED)],
    ptr := p, wcnt := 0 }

/-- Reset with a silent bus (95's dead bus). -/
def off : State := { State.reset with params := pars }

/-- The same with `CTRL.EN` 1. -/
def on : State := writeCtrl 1 off

/-- Reset with the reference device and `CTRL.EN` 1. -/
def ref : State := on.setBusAgent (.reference (dev 0x58 0xD0))

/-- The calibration of E1. -/
def cal : CalSet :=
  { t1 := 0x6B70, t2 := 0x6743, t3 := 0xFC18, p1 := 0x8E7D, p2 := 0xD643, p3 := 0x0BD0,
    p4 := 0x0B27, p5 := 0x008C, p6 := 0xFFF9, p7 := 0x3C8C, p8 := 0xC6F8, p9 := 0x1770 }

/-- The raw sample of E1. -/
def raw : RawSample := { t := 519888, p := 415148 }

/-- The calibration loaded (after S1). -/
def loaded : State := ref.setData { Readings.reset with cal := some cal }

/-- A sample read too (after S7). -/
def sampled : State := loaded.setData { Readings.reset with cal := some cal, raw := some raw }

/-- A temperature computed too. -/
def warmed (c : CalSet) (tf : Word) : State :=
  ref.setData { Readings.reset with cal := some c, raw := some raw, tfine := some tf,
                                    temp := some 0, tfineFresh := true }

/-- `TXBUF[0..3]` written. -/
def filled (s : State) : State := writeTxWord 0 0x000027F4 s

/-- `TXBUF` written whole. -/
def full : Memory := (List.range 32).map fun j => (0x80 + j, 0)

/-- Every data register and every buffer byte set. -/
def readable : State :=
  { ref with
    data := { cal := some cal, raw := some raw, tfine := some 128422, tfineFresh := true,
              temp := some 2508, pres := some 100653, lastId := some 0x58 },
    mem := [(0x80, 0xF4), (0x81, 0x27)] ++ ((List.range 61).map fun j => (0x82 + j, 0)) ++ [(0xBF, 0x17)] }

/-- A core that faulted in the command `i`. -/
def faultedIn (i : Instr) : State := raiseFault .unset 0x40 (on.setSeq (.entry i))

/-- A host at the `WAIT` of the line `ISSUE w`. -/
def waitingAt (w : Word) : HostAgent := { prog := [.issue w, .halt], pc := 0, waiting := true, vars := [] }

/-- The state after a command. -/
def after (i : Instr) (s : State) : State :=
  match exec i s with
  | .next t => t
  | .fault _ => s
  | .refused _ => s

/-- A read waiting for byte `i` of 3 with `CR.ACK` `ack` and the engine receiving. -/
def receiving (i : Nat) (ack : Bool) : State :=
  { on with
    seq := .poll (.read 0x77 3) .top (.rd11 0x77 3 i) 0,
    bus := { on.bus with
      cr := { on.bus.cr with ack := ack }, sr2 := { msl := true, busy := true, tra := false },
      phase := .rxActive, engRw := true, engTarget := 0x77 } }

/-! ## Encoding (30_encoding; 95 section 2) -/

/-- Well-formedness refuses a count over `BUF_LEN` and nothing else (R115 check 4). -/
theorem test_wf_refuses : (Instr.write 0x77 33).wf = false ∧ (Instr.read 0x77 33).wf = false ∧
    (Instr.write 0x7F 32).wf = true ∧ (Instr.probe 0x00 255).wf = true := by decide

/-- Fields from the most significant down, as R112 lays them out: `RSV1`, `N`, `RSV0`, `ADDR`, `OPC`. -/
theorem test_decode_operands :
    decode (0#8 ++ 2#8 ++ 0#1 ++ 0x77#7 ++ 0x03#8) = .ok (.write 0x77 2) ∧
    decode (0#8 ++ 32#8 ++ 0#1 ++ 0x77#7 ++ 0x03#8) = .ok (.write 0x77 32) ∧
    decode (0#8 ++ 24#8 ++ 0#1 ++ 0x77#7 ++ 0x04#8) = .ok (.read 0x77 24) ∧
    decode (0#8 ++ 0#8 ++ 0#1 ++ 0x7F#7 ++ 0x04#8) = .ok (.read 0x7F 0) ∧
    decode (0#8 ++ 3#8 ++ 0#1 ++ 0x77#7 ++ 0x05#8) = .ok (.probe 0x77 3) ∧
    decode (0#8 ++ 255#8 ++ 0#1 ++ 0x00#7 ++ 0x05#8) = .ok (.probe 0x00 255) := by decide

/-- The words of the commands without operands (95 section 2). -/
theorem test_decode_plain :
    decode 0x00000001 = .ok .start ∧ decode 0x00000002 = .ok .stop ∧
    decode 0x00000010 = .ok .readCal ∧ decode 0x00000011 = .ok .configure ∧
    decode 0x00000012 = .ok .readRaw ∧ decode 0x00000013 = .ok .init ∧
    decode 0x00000020 = .ok .compT ∧ decode 0x00000021 = .ok .compP ∧
    decode 0x00000022 = .ok .acquire := by decide

/-- Each check of R115 refuses by its name, in R115's order. -/
theorem test_decode_refuses :
    decode 0x00000000 = .error .unknownOpcode ∧ decode 0x000000FF = .error .unknownOpcode ∧
    decode 0x00008001 = .error .reservedNonzero ∧ decode 0x01000022 = .error .reservedNonzero ∧
    decode 0x00000113 = .error .operandNonzero ∧ decode 0x00010020 = .error .operandNonzero ∧
    decode 0x0000F702 = .error .reservedNonzero ∧ decode 0x00217703 = .error .countTooLarge ∧
    decodeBytes [0x01, 0x00, 0x00] = .error .truncated := by decide

/-- Words of R117's examples, encoded. -/
theorem test_encode : encode (.write 0x77 2) = 0x00027703 ∧ encode (.read 0x77 6) = 0x00067704 ∧
    encode (.probe 0x77 3) = 0x00037705 ∧ encode .acquire = 0x00000022 := by decide

/-- A table row's word reaches the decoder, and the step fetches it. -/
theorem test_table_word : decodeTableWord 32 0x00187704 = some (.read 0x77 24) ∧
    decodeTableWord 32 0x00000006 = none ∧
    nextMove (State.reset.withFetchWord 32 0x00187704) =
      .run (.read 0x77 24) (placeCommand 0x00187704 State.reset |>.setAgenda []) := by
  refine ⟨by decide, by decide, rfl⟩

/-- The first step after reset runs the placed command. -/
theorem test_fetch_runs :
    step (State.reset.withFetchWord 32 0x00000001) =
      .next (afterIssue (after .start (placeCommand 0x00000001 State.reset |>.setAgenda []))) := rfl

/-- Command syntax (R118), a comment, the three refusals, and a line without a command (log 19). -/
theorem test_assemble : assemble "WRITE 0x77, 2" = some (.write 0x77 2) ∧
    assemble "PROBE 118,255 ; comment" = some (.probe 0x76 255) ∧
    assemble "ACQUIRE" = some .acquire ∧ assemble "READ 0x80, 1" = none ∧
    assemble "READ 0x77, 33" = none ∧ assemble "PROBE 0x77, 256" = none ∧ assemble "" = none ∧
    assemble "; comment" = none := by decide

/-! ## Transport (95 section 3) -/

/-- T1. -/
theorem test_start : (after .start ref).bus.cr.word = 0x0001 ∧ (after .start ref).bus.sr1.word = 0x0001 ∧
    (after .start ref).bus.sr2.word = 0x0003 ∧ (after .start ref).bus.phase = .awaitAddr ∧
    (after .start ref).tally.observations = 1 := by decide

/-- T16: with `CTRL.EN` 0 a `START` times out. -/
theorem test_start_disabled : (after .start off).outcome = .timeout ∧
    (after .start off).tally.observations = 2 := by decide

/-- T2. -/
theorem test_stop : (after .stop ref).outcome = .success ∧ (after .stop ref).bus.cr.word = 0x0001 ∧
    (after .stop ref).bus.sr1.word = 0 ∧ (after .stop ref).wire = [.stop] := by decide

/-- T3. -/
theorem test_write : (after (.write 0x77 2) (filled ref)).bus.sr1.word = 0x0084 ∧
    (after (.write 0x77 2) (filled ref)).tally.observations = 5 ∧
    (after (.write 0x77 2) (filled ref)).statusWord = 0 ∧
    (after (.write 0x77 2) (filled ref)).wire =
      [.stop, .tx 0x27 true, .tx 0xF4 true, .addr 0xEE true, .start] := by decide

/-- T6: a NACKed data byte gives Timeout and leaves `AF` set. -/
theorem test_write_nacked :
    let s := (filled on).setAgenda ([.seq, .bus .start, .seq, .seq, .bus .addrAck, .seq, .seq] ++
      [.bus .txNack, .seq, .seq, .seq, .bus .stop])
    (after (.write 0x77 1) s).outcome = .timeout ∧ (after (.write 0x77 1) s).bus.sr1.word = 0x0400 ∧
      (after (.write 0x77 1) s).tally.observations = 5 := by decide

/-- T8. -/
theorem test_read_one : (after (.read 0x77 1) ref).rxByte 0 = some 0x58 ∧
    (after (.read 0x77 1) ref).bus.cr.word = 0x0001 ∧
    (after (.read 0x77 1) ref).wire = [.stop, .rx 0x58 false, .addr 0xEF true, .start] := by decide

/-- T9. -/
theorem test_read_six :
    let s := on.setBusAgent (.reference (dev 0x58 0xF7))
    hostReadWord 4 0xA0 (after (.read 0x77 6) s) = 0x7EC05A65 ∧
      (after (.read 0x77 6) s).tally.observations = 8 ∧
      (after (.read 0x77 6) s).wire.take 3 = [.stop, .rx 0x00 false, .rx 0xED true] := by decide

/-- T12. -/
theorem test_probe : (after (.probe 0x77 3) ref).statusWord = 0x08 ∧
    (after (.probe 0x77 3) ref).tally.starts = 1 ∧ (after (.probe 0x77 3) ref).bus.sr1.word = 0x0080 := by
  decide

/-- T13. -/
theorem test_probe_absent : (after (.probe 0x76 3) ref).ready = false ∧
    (after (.probe 0x76 3) ref).tally.starts = 3 ∧ (after (.probe 0x76 3) ref).tally.observations = 9 := by
  decide

/-! ## Sensor protocol (95 section 4) -/

/-- E1's bytes give E1's registers (R202). -/
theorem test_read_cal : (after .readCal ref).data.cal = some cal := by decide

/-- S6. -/
theorem test_configure :
    (match (after .configure ref).busAgent with
    | .reference d => d.reg 0xF4 == 0x27 && d.reg 0xF5 == 0xA0
    | .scripted => false) = true := by decide

/-- S7. -/
theorem test_read_raw : (after .readRaw ref).data.raw = some raw ∧
    (after .readRaw ref).tally.observations = 12 := by decide

/-- S7's failure, on a dead bus: the sample is two draws and `RAW_VALID` 1. -/
theorem test_read_raw_fails : (after .readRaw on).draws = 2 ∧
    (after .readRaw on).statusWord = 0x24 := by decide

set_option maxRecDepth 4000 in
/-- S1. -/
theorem test_init : (after .init ref).statusWord = 0x18 ∧ (after .init ref).tally.observations = 50 ∧
    (after .init ref).data.lastId = some 0x58 := by decide

/-- S2. -/
theorem test_init_wrong_id :
    let s := on.setBusAgent (.reference (dev 0x60 0))
    (after .init s).statusWord = 0x08 ∧ (after .init s).tally.observations = 10 ∧
      (after .init s).data.lastId = some 0x60 := by decide

/-! ## Compensation (95 section 5) -/

/-- The datasheet row of 5.1. -/
theorem test_comp_t : (after .compT sampled).data.tfine = some 128422 ∧
    (after .compT sampled).data.temp = some 2508 := by decide

/-- Rows of 5.1 whose products wrap. -/
theorem test_comp_t_wraps : compTInt 1048575 0 32767 32767 = (-144, -3) ∧
    compTInt 0 65535 (-32768) (-32768) = (32, 1) ∧
    compTInt 0 27504 26435 (-1000) = (-721301, -14088) := by decide

/-- The datasheet row of 5.2. -/
theorem test_comp_p : (after .compP (warmed cal 128422)).data.pres = some 100653 := by decide

/-- Rows of 5.2: a negative Q24.8 result, a negative denominator. -/
theorem test_comp_p_rows : compPres cal 1048575 128422 = 16770585 ∧
    compPres cal 415148 2147483647 = 118551 ∧
    compPres cal 415148 2147483648 = 15511311 := by decide

/-- 5.3: `ACQUIRE` after S1. -/
theorem test_acquire : (after .acquire loaded).data.temp = some 2508 ∧
    (after .acquire loaded).data.pres = some 100653 ∧ (after .acquire loaded).statusWord = 0x70 := by
  decide

/-- 5.3: `ACQUIRE` with no calibration loaded. -/
theorem test_acquire_unset : (after .acquire ref).faultWord = 0x00000103 ∧
    (after .acquire ref).tally.observations = 12 := by decide

/-! ## Faults and the window (95 sections 6, 7) -/

/-- Rows of section 6 that a host access raises. -/
theorem test_fault_words :
    (hostRead 4 0x28 on).faultWord = 0x00002805 ∧ (hostRead 1 0x04 on).faultWord = 0x00000405 ∧
    (hostWrite 4 0x02 0 on).faultWord = 0x00000205 ∧
    (hostWrite 4 0x00 0x00000007 on).faultWord = 0x00000701 ∧
    (hostWrite 4 0x00 0x00000007 on).statusWord = 0x80 ∧ (hostWrite 4 0x04 0xFF on).faultWord = 0 := by
  decide

/-- Rows of section 6 that a command raises, or a write while one runs. -/
theorem test_command_faults :
    (after (.write 0x77 1) on).faultWord = 0x00004003 ∧
    (after (.write 0x77 1) on).statusWord = 0x81 ∧
    (hostWrite 4 0x00 0 (receiving 0 true)).faultWord = 0x00000002 ∧
    (hostWrite 4 0x08 0 (receiving 0 true)).faultWord = 0x00000102 ∧
    (hostWrite 4 0x84 0 (receiving 0 true)).faultWord = 0x00000202 ∧
    (after .compP sampled).faultWord = 0x00000004 ∧ (after .compT on).faultWord = 0x00000103 ∧
    (after .compT loaded).faultWord = 0x00000203 := by decide

/-- Section 7: buffer bytes are packed little-endian. -/
theorem test_tx_word : (filled on).txByte 0 = some 0xF4 ∧ (filled on).txByte 1 = some 0x27 ∧
    (filled on).txByte 4 = none ∧ rawOf 0x80 0x00 0x00 = 524288 ∧ rawOf 0x00 0x00 0x0F = 0 := by decide

/-- P1's first line: the host enables the peripheral and goes on to its next line. -/
theorem test_host_line :
    (match step (off.setHost { prog := [hwLine 0x08 1, .halt], pc := 0, waiting := false, vars := [] }) with
    | .next t => t.bus.cr.pe && t.host.pc == 1
    | .fault _ => false
    | .refused _ => false) = true := by decide

/-- R120: a host at the `WAIT` of an `ISSUE` that faulted goes on after a reset, `CMD` as the reset left it. -/
theorem test_issue_after_reset :
    (match step (((faultedIn .init).setHost (waitingAt 0x00000013)).setAgenda [.reset]) with
    | .next t =>
      match step t with
      | .next u => u.host.pc == 1 && u.cmd == 0 && !u.busy && !u.faulted
      | .fault _ => false
      | .refused _ => false
    | .fault _ => false
    | .refused _ => false) = true := by decide

/-- R120: `REGREAD` is the two `ISSUE`s with the read of `STATUS` and the branch to its end between. -/
theorem test_regread_lines : regReadLines 0 1 0xF7 6 =
    [.write 4 0x80 (.lit 0xF7), .write 4 0x00 (.lit 0x00017703), .wait, .read 1 4 0x04,
     .ifNe 1 2 1 0 7, .write 4 0x00 (.lit 0x00067704), .wait] := by decide

/-- The window map (R81): what a read at each boundary offset returns. -/
theorem test_window_map : hostReadWord 4 0x00 readable = 0 ∧ hostReadWord 4 0x08 readable = 1 ∧
    hostReadWord 4 0x0C readable = 0 ∧ hostReadWord 4 0x10 readable = 2508 ∧
    hostReadWord 4 0x14 readable = 100653 ∧ hostReadWord 4 0x18 readable = 128422 ∧
    hostReadWord 4 0x1C readable = 519888 ∧ hostReadWord 4 0x20 readable = 415148 ∧
    hostReadWord 4 0x24 readable = 0x58 ∧ hostReadWord 4 0x40 readable = 0x6B70 ∧
    hostReadWord 4 0x6C readable = 0x1770 ∧ hostReadWord 4 0x80 readable = 0x000027F4 ∧
    hostReadWord 4 0xBC readable = 0x17000000 := by decide

/-! ## Witnesses: states and operands that meet each statement's hypotheses -/

/-- `off` with a condition on the peripheral changed. -/
def withAf : State :=
  { on with mem := full, bus := { on.bus with sr1 := { on.bus.sr1 with af := true } } }

/-- `on` with `TXBUF` written but byte `j`. -/
def missing (j : Nat) : State := on.setMem (full.filter fun c => c.1 != 0x80 + j)

/-- A faulted core. -/
def faulted : State := raiseFault .illegal 0x06 on

/-- A host standing at the line `op`. -/
def atLine (op : HostOp) : HostAgent := { prog := [op, .wait], pc := 0, waiting := false, vars := [] }

/-- A calibration whose denominator vanishes with `P1` not 0: −2^47 from its `P2` term (R238). -/
def zeroDenominator : CalSet := { cal with p1 := 1, p2 := 0x8000, p3 := 0 }

theorem witness_encoding : (Instr.write 0x7F 32).wf = true ∧ (Instr.read 0x00 0).wf = true ∧
    (Instr.probe 0x7F 255).wf = true ∧ decode 0x00207F03 = .ok (.write 0x7F 32) := by decide

theorem witness_CmdWriteChecked : Accepts State.reset ∧ ValidWord 0x00207703 ∧ ValidWord 0x00FF7F05 ∧
    ¬ValidWord 0x00217703 ∧ ¬ValidWord 0x00000006 ∧ ¬ValidWord 0x00008001 ∧ ¬ValidWord 0x00010020 :=
  ⟨by decide, by simp [ValidWord], by simp [ValidWord], by simp [ValidWord], by simp [ValidWord],
    by simp [ValidWord], by simp [ValidWord]⟩

theorem witness_WrapAndShiftLaws : 0 < 32 ∧ (-(2 ^ 31) : Int) ≤ -(2 ^ 31) ∧ (-(2 ^ 31) : Int) < 2 ^ 31 ∧
    (2 ^ 32 : Int) ∣ -(2 ^ 31) - 2 ^ 31 := by decide

theorem witness_DivisionLaw : (-(2 ^ 63) ≤ (-(2 ^ 63) : Int) ∧ (-(2 ^ 63) : Int) < 2 ^ 63) ∧
    (-(2 ^ 63) ≤ (-1 : Int) ∧ (-1 : Int) < 2 ^ 63) ∧ (-1 : Int) ≠ 0 ∧
    (compPDenom 128422 0 (-10685) 3024 2855 140 (-7)).2 = 0 := by decide

theorem witness_CompT : Accepts sampled ∧ sampled.data.cal = some cal ∧ sampled.data.raw = some raw ∧
    Accepts loaded ∧ loaded.data.cal ≠ none ∧ loaded.data.raw = none ∧ Accepts ref ∧
    ref.data.cal = none ∧ on.agenda = [] ∧ on.busAgent = .scripted ∧ Accepts on := by decide

theorem witness_CompP : Accepts (warmed cal 0) ∧ (warmed cal 0).data.cal = some cal ∧
    (warmed cal 0).data.raw = some raw ∧ (warmed cal 0).data.tfineFresh = true ∧
    (warmed cal 0).data.tfine = some 0 ∧ sampled.data.cal ≠ none ∧ sampled.data.raw ≠ none ∧
    sampled.data.tfineFresh = false := by decide

theorem witness_ZeroDenominatorGuard :
    (Sys2Proof.Claims.denominator (1048576 + 128000) zeroDenominator.p1.toNat zeroDenominator.p2.toInt
      zeroDenominator.p3.toInt zeroDenominator.p4.toInt zeroDenominator.p5.toInt
      zeroDenominator.p6.toInt).2 = 0 ∧ zeroDenominator.p1 ≠ 0 ∧
    (warmed zeroDenominator 1176576).data.tfine = some 1176576 ∧ (1176576 : Word).toInt = 1048576 + 128000 ∧
    Accepts (warmed zeroDenominator 1176576) ∧ { cal with p1 := 0 : CalSet }.p1 = 0 := by decide

theorem witness_CompensationIsPure :
    (Accepts sampled ∧ Accepts (after .compT sampled) ∧
      exec .compT sampled = .next (after .compT sampled) ∧
      exec .compT (after .compT sampled) = .next (after .compT (after .compT sampled))) ∧
    (Accepts (warmed cal 0) ∧ Accepts (after .compP (warmed cal 0)) ∧
      exec .compP (warmed cal 0) = .next (after .compP (warmed cal 0))) ∧
    sampled.data.cal = (sampled.setReady true).data.cal := by
  refine ⟨⟨by decide, by decide, rfl, rfl⟩, ⟨by decide, by decide, rfl⟩, rfl⟩

theorem witness_EveryCommandEndsWithinBounds : (Instr.read 0x77 0).wf = true ∧ Instr.init.wf = true ∧
    Accepts on := by decide

theorem witness_CalibrationChangesOnlyByLoading : exec .readCal ref = .next (after .readCal ref) ∧
    (after .readCal ref).data.cal ≠ ref.data.cal := ⟨rfl, by decide⟩

theorem witness_TransportCommandsComplete : Accepts withAf ∧ (32 : BitVec 8).toNat ≤ 32 ∧
    TxReady withAf (32 : BitVec 8).toNat ∧ TxReady off (0 : BitVec 8).toNat := by decide

theorem witness_ReadCompletes : Accepts ref ∧ (after (.read 0x77 32) ref).outcome = .success ∧
    (32 : BitVec 8) ≠ 0 ∧ (32 : BitVec 8).toNat ≤ 32 := by decide

theorem witness_WriteUnsetFaults :
    (Accepts (missing 0) ∧ (missing 0).txByte 0 = none ∧ TxReady (missing 0) 0 ∧ 0 < (1 : BitVec 8).toNat) ∧
    (missing 31).txByte 31 = none ∧ TxReady (missing 31) 31 ∧ 31 < (32 : BitVec 8).toNat := by decide

theorem witness_DisabledBusTimesOut : Accepts off ∧ off.bus.cr.pe = false ∧ off.bus.sr1.sb = false ∧
    Accepts { off with mem := full } ∧ TxReady { off with mem := full } 32 := by decide

theorem witness_TransferEndsWithStopRequested : Accepts (filled ref) ∧
    Accepts (after (.write 0x77 2) (filled ref)) ∧ Accepts (after (.read 0x77 1) off) ∧
    exec (.write 0x77 2) (filled ref) = .next (after (.write 0x77 2) (filled ref)) ∧
    exec (.read 0x77 1) off = .next (after (.read 0x77 1) off) :=
  ⟨by decide, by decide, by decide, rfl, rfl⟩

theorem witness_StickyAfFailsTransfers : Accepts withAf ∧ withAf.bus.sr1.af = true ∧
    TxReady withAf (32 : BitVec 8).toNat := by decide

theorem witness_ProbeAttemptsBounded : Accepts ref ∧ (after (.probe 0x76 3) ref).ready = false ∧
    (3 : BitVec 8) ≠ 0 := by decide

/-- The state of every statement about the reference device. -/
theorem witness_UnderReference : UnderReference (dev 0x58 0xD0) ref ∧
    UnderReference (dev 0x58 0xD0) (ref.setMem full) ∧ UnderReference (dev 0x58 0xD0) loaded := by
  refine ⟨?_, ?_, ?_⟩ <;> constructor <;> decide

theorem witness_reference : TxReady (ref.setMem full) (32 : BitVec 8).toNat ∧
    ref.params.regCtrlMeas ≠ ref.params.regConfig ∧ loaded.data.cal = some cal ∧
    ref.params.readyAttempts ≠ 0 ∧ (dev 0x58 0xD0).reg ref.params.regId = 0x58 ∧
    (0x76 : Addr7) ≠ Config.devAddr := by decide

theorem witness_sensor_outcomes : (after .readCal ref).outcome = .success ∧
    (after .readCal on).outcome ≠ .success ∧ (after .readRaw ref).outcome = .success ∧
    (after .readRaw on).outcome ≠ .success ∧ Accepts ref ∧ Accepts on ∧ Accepts loaded := by decide

/-- The program points of `INIT` that the statement's clauses start from, with both answers. -/
def initAt (r : Ret) (pt : Point) : State :=
  { on with seq := .polled .init r pt (some on.bus.observe), bus := { on.bus with dr := 0x58 } }

theorem witness_InitGoesOn : (initAt .i3Burst (.rd11 0x77 1 0)).fault = none ∧
    (initAt .i3Burst (.rd11 0x77 1 0)).bus.dr = 0x58 ∧
    (initAt .i3Burst (.rd11 0x77 1 0)).seq =
      .polled .init .i3Burst (.rd11 0x77 1 0) (some on.bus.observe) ∧
    (initAt .c1Burst (.rdStop .timeout)).seq =
      .polled .init .c1Burst (.rdStop .timeout) (some on.bus.observe) ∧
    (initAt .i3Ptr (.wStop .addressNack)).seq =
      .polled .init .i3Ptr (.wStop .addressNack) (some on.bus.observe) ∧
    (initAt .g1 (.wStop .success)).seq = .polled .init .g1 (.wStop .success) (some on.bus.observe) ∧
    TxOutcome.timeout ≠ .success ∧ TxOutcome.addressNack ≠ .success := by decide

/-- The identity read's step goes on to C1 after 0x58 and ends the command after any other byte (R210). -/
theorem test_init_identity :
    (seqStep (initAt .i3Burst (.rd11 0x77 1 0))).seq = .poll .init .c1Ptr (.w1 0x77 1) 0 ∧
    (seqStep ((initAt .i3Burst (.rd11 0x77 1 0)).setBus on.bus)).seq = .idle := by decide

theorem witness_ReadDataRegister : 0 < 32 ∧ 31 < 32 := by decide

theorem witness_ClearStatus : { on.bus with phase := .rxHold : Periph }.phase = .rxHold ∧
    on.bus.phase ≠ .rxHold := by decide

/-- A state in which the event `e` can come: the peripheral on, the requests and the phase given. -/
def busAt (start stop : Bool) (ph : Phase) (rw : Bool) : Periph :=
  { on.bus with cr := { on.bus.cr with start := start, stop := stop }, phase := ph, engRw := rw }

/-- Each event enabled somewhere (R146), and `EV_START` not while `CR.STOP` is 1 (R306). -/
theorem witness_Events : BusEvent.start.enabled (busAt true false .nacked false) = true ∧
    BusEvent.start.enabled (busAt true true .idle false) = false ∧
    BusEvent.addrAck.enabled (busAt false false .addrSent false) = true ∧
    BusEvent.addrAck.enabled (busAt false false .addrSent true) = true ∧
    BusEvent.addrNack.enabled (busAt false false .addrSent true) = true ∧
    BusEvent.txAck.enabled (busAt false false .txByte false) = true ∧
    BusEvent.txNack.enabled (busAt false false .txByte false) = true ∧
    (BusEvent.rx 0x58).enabled (busAt false false .rxActive true) = true ∧
    BusEvent.stop.enabled (busAt false true .rxHold true) = true := by decide

theorem witness_OnlyClearAfClearsAf : withAf.bus.sr1.af = true := by decide

theorem witness_WriteDataRegister :
    ((after .start ref).bus.phase = .awaitAddr ∧ (after .start ref).bus.sr1.sb = true) ∧
    ({ on.bus with phase := .txReady : Periph }.phase = .txReady ∧
      { on.bus with phase := .txReady : Periph }.sr1.addr = false) ∧ on.bus.phase = .idle := by decide

theorem witness_CtrlWrite : Accepts on ∧ on.bus.cr.pe = true ∧ (0 : Word).getLsbD 0 = false ∧
    off.bus.cr.pe = false ∧ (receiving 0 true).busy = true ∧ (receiving 0 true).fault = none := by decide

theorem witness_BadAccessFaults : on.fault = none ∧ (1 ≠ 4) ∧ ¬MappedOffset 0x28 ∧ ¬MappedOffset 0x3C ∧
    ¬MappedOffset 0x70 ∧ ¬MappedOffset 0xC0 ∧ ¬MappedOffset 0x02 := by decide

theorem witness_MappedOffset : MappedOffset 0x24 ∧ MappedOffset 0x40 ∧ MappedOffset 0x6C ∧
    MappedOffset 0xA0 ∧ MappedOffset 0xBC ∧ MappedOffset 0x00 ∧ MappedOffset 0x80 ∧ MappedOffset 0x9C := by
  decide

theorem witness_TxWordWrite : Accepts on ∧ 0 < 8 ∧ 7 < 8 := by decide

/-- Each class of offsets at its boundaries, with no unset bit. -/
theorem witness_HostReads : ∀ off ∈ [0x00, 0x04, 0x08, 0x0C, 0x10, 0x14, 0x18, 0x1C, 0x20, 0x24, 0x40,
      0x6C, 0x80, 0x9C, 0xA0, 0xBC],
    MappedOffset off ∧ (Sys2Proof.Claims.windowWord readable off).isSome = true := by decide

/-- Each class of offsets at its boundaries, with unset bits. -/
theorem witness_UnsetBits : ∀ off ∈ [0x10, 0x18, 0x1C, 0x20, 0x24, 0x40, 0x6C, 0x80, 0x9C, 0xA0, 0xBC],
    MappedOffset off ∧ Sys2Proof.Claims.windowWord (filled ref) off = if off = 0x80 then some 0x000027F4 else none := by
  decide

theorem witness_FaultedCoreIsQuiescent : faulted.fault ≠ none ∧ faulted.agenda.head? ≠ some .reset ∧
    step faulted = .next faulted := ⟨by decide, by decide, rfl⟩

theorem witness_PowerResetRestores : (faulted.setAgenda [.reset]).agenda = .reset :: [] := rfl

theorem witness_StepRunsIssuedCommand :
    let s := on.setHost (atLine (.issue 0x00000001))
    s.host.prog[s.host.pc]? = some (.issue 0x00000001) ∧ s.host.waiting = false ∧
      decode 0x00000001 = .ok .start ∧
      s.agenda = [] ∧ s.busy = false ∧ (raiseFault .busy 0 (s.setSeq (.entry .start))).faulted = true ∧
      (s.setAgenda [.host, .seq]).agenda = .host :: [.seq] := by decide

/-- A host at the `WAIT` with `BUSY` 1 and with `BUSY` 0, on its own turn and before a reset. -/
theorem witness_IssueWaitsWithoutWriting :
    let s := (faultedIn .init).setHost (waitingAt 0x00000013)
    s.host.prog[s.host.pc]? = some (.issue 0x00000013) ∧ s.host.waiting = true ∧ s.busy = true ∧
      (on.setHost (waitingAt 0x00000013)).busy = false ∧
      (s.setAgenda [.host, .seq]).agenda = .host :: [.seq] ∧ (s.setAgenda [.reset]).agenda = [.reset] := by
  decide

theorem witness_IssueIsWriteThenWait :
    let s := on.setHost (atLine (.write 4 0x00 (.lit (encode .start))))
    Accepts s ∧ Instr.start.wf = true ∧ s.agenda = [] ∧
      s.host.prog[s.host.pc]? = some (.write 4 0x00 (.lit (encode .start))) ∧
      s.host.prog[s.host.pc + 1]? = some .wait := by decide

theorem witness_StepKeepsInv : Inv (receiving 1 true) ∧
    step (receiving 1 true) = .next (sequencerTurn (receiving 1 true)) := by
  refine ⟨⟨by decide, by decide, by decide, ?_, ?_, ?_, by decide⟩, rfl⟩
  · intro h; exact absurd h (by decide)
  · exact ⟨by decide, by decide, by decide⟩
  · intro d h
    have : (receiving 1 true).busAgent = .scripted := by decide
    rw [this] at h; cases h

theorem witness_LastByteIsNacked : (receiving 1 true).seq.legal pars ∧
    (receiving 1 true).seq.ackRule (receiving 1 true).bus.cr.ack ∧
    (receiving 2 false).seq.ackRule (receiving 2 false).bus.cr.ack ∧
    (BusEvent.rx 0x58).enabled (receiving 2 false).bus = true := by
  refine ⟨⟨by decide, by decide, by decide⟩, ?_, ?_, by decide⟩ <;> simp [Seq.ackRule, receiving]

end Sys2Proof.Tests
end

section
/-! SUPPORT. The scope family: `wrap_N` and `asr` as 00_scope R11 defines them (O5). -/

namespace Sys2Proof.Machine

/-- Half of `2^N`, rounded down or up, is the bound of the `N`-bit range (00_scope R11). -/
theorem half_two_pow {n : Nat} (hn : 0 < n) :
    ((2 ^ n : Nat) : Int) / 2 = 2 ^ (n - 1) ∧ (((2 ^ n : Nat) : Int) + 1) / 2 = 2 ^ (n - 1) := by
  obtain ⟨k, rfl⟩ : ∃ k, n = k + 1 := ⟨n - 1, by omega⟩
  push_cast [pow_succ, Nat.add_sub_cancel]
  constructor <;> omega

/-- What R11 defines `wrap_N` by: the value of the `N`-bit range congruent to `x`. -/
theorem wrap_eq_iff {n : Nat} (hn : 0 < n) (x y : Int) :
    wrap n x = y ↔ -(2 ^ (n - 1)) ≤ y ∧ y < 2 ^ (n - 1) ∧ (2 ^ n : Int) ∣ y - x := by
  obtain ⟨hlo, hhi⟩ := half_two_pow hn
  rw [wrap, Int.bmod_eq_iff (Nat.two_pow_pos n), hlo, hhi]
  push_cast
  rfl

/-- `asr` is the floor of the quotient (R11), as its two bounds. -/
theorem asr_floor (a : Int) (k : Nat) : asr a k * 2 ^ k ≤ a ∧ a < (asr a k + 1) * 2 ^ k := by
  have hpos : (0 : Int) < 2 ^ k := by positivity
  rw [asr, Int.fdiv_eq_ediv_of_nonneg _ hpos.le]
  exact ⟨Int.ediv_mul_le a hpos.ne', Int.lt_ediv_add_one_mul_self a hpos⟩

/-- Settles O5: the range, the congruence and the uniqueness of `wrap_N` are the two directions of
`wrap_eq_iff`. -/
theorem wrapAndShiftLaws : Obligations.WrapAndShiftLaws := by
  unfold Obligations.WrapAndShiftLaws
  refine ⟨fun n x hn => ?_, asr_floor⟩
  obtain ⟨hlo, hhi, hdvd⟩ := (wrap_eq_iff hn x _).1 rfl
  exact ⟨hlo, hhi, hdvd, fun y hylo hyhi hy => ((wrap_eq_iff hn x y).2 ⟨hylo, hyhi, hy⟩).symm⟩

end Sys2Proof.Machine
end

section
/-! SUPPORT. The scope family: a command's observations and sequencer steps within O(c) and 2 × O(c) + 1
(40_bus R156, 41_sensor R214; O13). A command has two credits for each observation it may make and one
for its first step: an observation's step spends one and leaves one for the step after the poll. -/

namespace Sys2Proof.Machine

/-! ## One sequencer step, by where the sequencer stands (10_state R39) -/

theorem seqStep_idle {s : State} (h : s.seq = .idle) : seqStep s = s := by simp [seqStep, h]

theorem seqStep_entry {s : State} {c : Instr} (h : s.seq = .entry c) :
    seqStep s = enter c s.countSeqStep := by simp [seqStep, h]

theorem seqStep_poll {s : State} {c : Instr} {r : Ret} {pt : Point} {j : Nat}
    (h : s.seq = .poll c r pt j) : seqStep s = observeStep c r pt j s.countSeqStep := by
  simp [seqStep, h]

theorem seqStep_polled {s : State} {c : Instr} {r : Ret} {pt : Point} {res : Option Obs}
    (h : s.seq = .polled c r pt res) : seqStep s = resume c r pt res s.countSeqStep := by
  simp [seqStep, h]

/-! ## What counts nothing: the runs of actions between polls (10_state R39) -/

/-- The two counts the bounds of R156 speak of (log 11, 16). -/
def State.counts (s : State) : Nat × Nat := (s.tally.observations, s.tally.seqSteps)

@[simp] theorem counts_setOutcome (s : State) (o : TxOutcome) : (s.setOutcome o).counts = s.counts := rfl
@[simp] theorem counts_setReady (s : State) (b : Bool) : (s.setReady b).counts = s.counts := rfl
@[simp] theorem counts_onBus (s : State) (f : Periph → Periph) : (s.onBus f).counts = s.counts := rfl
@[simp] theorem counts_putTx (s : State) (j : Nat) (b : Byte) : (s.putTx j b).counts = s.counts := rfl
@[simp] theorem counts_raise (c : FaultCode) (i : Byte) (s : State) :
    (raiseFault c i s).counts = s.counts := rfl
@[simp] theorem counts_endCmd (s : State) : (endCmd s).counts = s.counts := rfl
@[simp] theorem counts_beginPoll (c : Instr) (r : Ret) (pt : Point) (s : State) :
    (beginPoll c r pt s).counts = s.counts := rfl
@[simp] theorem counts_callStart (c : Instr) (r : Ret) (pt : Point) (s : State) :
    (callStart c r pt s).counts = s.counts := rfl
@[simp] theorem counts_callStop (c : Instr) (r : Ret) (pt : Point) (s : State) :
    (callStop c r pt s).counts = s.counts := rfl
@[simp] theorem counts_callRead (c : Instr) (r : Ret) (a : Addr7) (n : Nat) (s : State) :
    (callRead c r a n s).counts = s.counts := rfl
@[simp] theorem counts_probeAttempt (c : Instr) (r : Ret) (a : Addr7) (m k : Nat) (s : State) :
    (probeAttempt c r a m k s).counts = s.counts := rfl

@[simp] theorem counts_callWrite (c : Instr) (r : Ret) (a : Addr7) (n : Nat) (s : State) :
    (callWrite c r a n s).counts = s.counts := by
  unfold callWrite; split <;> simp

@[simp] theorem counts_callRegWrite (c : Instr) (ret : Ret) (r v : Byte) (s : State) :
    (callRegWrite c ret r v s).counts = s.counts := by simp [callRegWrite]

@[simp] theorem counts_callRegRead (c : Instr) (ret : Ret) (r : Byte) (s : State) :
    (callRegRead c ret r s).counts = s.counts := by simp [callRegRead]

@[simp] theorem counts_sendByte (c : Instr) (r : Ret) (a : Addr7) (n i : Nat) (s : State) :
    (sendByte c r a n i s).counts = s.counts := by
  unfold sendByte; split
  · split <;> simp
  · simp

@[simp] theorem counts_takeByte (n i : Nat) (s : State) : (takeByte n i s).counts = s.counts := by
  unfold takeByte; dsimp only; split <;> rfl

theorem counts_unlessFaulted (f : State → State) (s : State)
    (h : ∀ t, (f t).counts = t.counts) : (unlessFaulted f s).counts = s.counts := by
  unfold unlessFaulted; split
  · rfl
  · exact h s

@[simp] theorem counts_runCompT (s : State) : (runCompT s).counts = s.counts := by
  unfold runCompT; split <;> rfl

@[simp] theorem counts_runCompP (s : State) : (runCompP s).counts = s.counts := by
  rcases runCompP_cases s with ⟨-, h⟩ | ⟨-, -, h⟩ | ⟨-, -, -, h⟩ | ⟨-, -, -, -, h⟩ |
    ⟨_, _, _, -, -, -, -, h⟩ <;> rw [h] <;> rfl

@[simp] theorem counts_acquireRest (s : State) : (acquireRest s).counts = s.counts :=
  ((counts_unlessFaulted _ _ counts_endCmd).trans (counts_unlessFaulted _ _ counts_runCompP)).trans
    (counts_runCompT s)

@[simp] theorem counts_calUpdate (o : TxOutcome) (s : State) : (calUpdate o s).counts = s.counts := by
  cases o <;> rfl

@[simp] theorem counts_rawUpdate (o : TxOutcome) (s : State) : (rawUpdate o s).counts = s.counts := by
  cases o <;> rfl

@[simp] theorem counts_idUpdate (o : TxOutcome) (s : State) : (idUpdate o s).counts = s.counts := by
  cases o <;> rfl

@[simp] theorem counts_calDone (c : Instr) (o : TxOutcome) (s : State) :
    (calDone c o s).counts = s.counts := by
  unfold calDone beginConfigure; split <;> simp

@[simp] theorem counts_rawDone (c : Instr) (o : TxOutcome) (s : State) :
    (rawDone c o s).counts = s.counts := by
  unfold rawDone; split <;> simp

@[simp] theorem counts_idDone (c : Instr) (o : TxOutcome) (s : State) :
    (idDone c o s).counts = s.counts := by
  unfold idDone beginReadCal; dsimp only; split <;> simp

@[simp] theorem counts_returnProbe (c : Instr) (r : Ret) (b : Bool) (s : State) :
    (returnProbe c r b s).counts = s.counts := by
  cases r
  case i1 => cases b <;> simp [returnProbe, beginIdentity]
  all_goals rfl

@[simp] theorem counts_callProbe (c : Instr) (r : Ret) (a : Addr7) (m : Nat) (s : State) :
    (callProbe c r a m s).counts = s.counts := by
  unfold callProbe; split <;> simp

@[simp] theorem counts_nextAttempt (c : Instr) (r : Ret) (a : Addr7) (m k : Nat) (s : State) :
    (nextAttempt c r a m k s).counts = s.counts := by
  unfold nextAttempt; split <;> simp

@[simp] theorem counts_returnWrite (c : Instr) (r : Ret) (o : TxOutcome) (s : State) :
    (returnWrite c r o s).counts = s.counts := by
  cases r <;> simp only [returnWrite, configureG2]
  case c1Ptr | m1Ptr | i3Ptr => split <;> simp
  all_goals simp

@[simp] theorem counts_returnRead (c : Instr) (r : Ret) (o : TxOutcome) (s : State) :
    (returnRead c r o s).counts = s.counts := by
  cases r <;> simp [returnRead]

/-- The actions after a poll make no observation and are one step, which `seqStep` counts (R39). -/
theorem counts_resume (c : Instr) (r : Ret) (pt : Point) (res : Option Obs) (s : State) :
    (resume c r pt res s).counts = s.counts := by
  cases pt <;> simp only [resume, afterW4, afterRd5, afterRd11, afterQ5]
  case w1 | w10 | rd2 | q2 | qStop => split <;> simp
  case w4 | rd5 | rd11 | q5 =>
    split
    · simp
    · split <;> simp
  all_goals simp

/-- A command's first actions make no observation either. -/
theorem counts_enter (c : Instr) (s : State) : (enter c s).counts = s.counts := by
  cases c <;> simp only [enter]
  case read => split <;> simp
  case compT => exact (counts_unlessFaulted _ _ counts_endCmd).trans (counts_runCompT s)
  case compP => exact (counts_unlessFaulted _ _ counts_endCmd).trans (counts_runCompP s)
  all_goals simp [beginReadCal, beginConfigure, beginReadRaw]

/-- An observation counts as one. -/
theorem counts_observeStep (c : Instr) (r : Ret) (pt : Point) (j : Nat) (s : State) :
    (observeStep c r pt j s).counts = (s.counts.1 + 1, s.counts.2) := by
  unfold observeStep; dsimp only; split
  · rfl
  · split <;> rfl

/-! ## Two credits for each observation -/

/-- Parameters under which the cost of a poll, its budget and one step, is twice its own budget. -/
def doubleBudgets (p : Params) : Params :=
  { p with startMore := 2 * p.startMore, stopMore := 2 * p.stopMore, addrMore := 2 * p.addrMore,
           btfMore := 2 * p.btfMore, rxneMore := 2 * p.rxneMore }

@[simp] theorem doubleBudgets_readyAttempts (p : Params) :
    (doubleBudgets p).readyAttempts = p.readyAttempts := rfl

theorem budget_doubled (p : Params) (pt : Point) : pt.budget (doubleBudgets p) + 1 = 2 * pt.budget p := by
  cases pt <;> simp only [Point.budget, Params.bStart, Params.bStop, Params.bAddr, Params.bBtf,
    Params.bRxne, doubleBudgets] <;> omega

theorem writeCost_doubled (p : Params) (n : Nat) : writeCost (doubleBudgets p) n = 2 * obsWrite p n := by
  simp only [writeCost, obsWrite, Params.bStart, Params.bStop, Params.bAddr, Params.bBtf,
    doubleBudgets]
  ring

theorem readCost_doubled (p : Params) {n : Nat} (hn : n ≠ 0) :
    readCost (doubleBudgets p) n = 2 * obsRead p n := by
  simp only [readCost, obsRead, hn, if_false, Params.bStart, Params.bStop, Params.bAddr, Params.bRxne,
    doubleBudgets]
  ring

theorem attemptCost_doubled (p : Params) (m : Nat) :
    m * attemptCost (doubleBudgets p) = 2 * obsProbe p m := by
  simp only [attemptCost, obsProbe, Params.bStart, Params.bStop, Params.bAddr, doubleBudgets]
  ring

/-- The credits left to the sequencer. A poll that has made `j` observations may make the rest of its
budget, and at least the one it stands at. -/
def Seq.credit (p : Params) : Seq → Nat
  | .idle => 0
  | .entry c => 2 * obsBound p c + 1
  | .poll c r pt j => 2 * (pt.budget p - (j + 1)) + 2 + pointCost (doubleBudgets p) c r pt
  | .polled c r pt _ => pointCost (doubleBudgets p) c r pt + 1

/-- Whether the next step is a run of actions, which makes no observation: one credit is left for it. -/
def Seq.runsNext : Seq → Nat
  | .idle => 0
  | .entry _ => 1
  | .poll _ _ _ _ => 0
  | .polled _ _ _ _ => 1

theorem runsNext_le_one (q : Seq) : q.runsNext ≤ 1 := by
  cases q <;> simp [Seq.runsNext]

/-- A faulted core makes no further step (60_exceptions R265). -/
def State.credit (s : State) : Nat := if s.faulted then 0 else s.seq.credit s.params

theorem credit_of_running {s : State} (hf : s.faulted = false) : s.credit = s.seq.credit s.params := by
  simp [State.credit, hf]

/-- Twice a command's observations pay for every poll it can come to, unless it is a `READ` of no byte,
whose `O(c)` is 0 (R156). -/
theorem entryCost_doubled (p : Params) (c : Instr) (h : ¬∃ a, c = .read a 0) :
    entryCost (doubleBudgets p) c = 2 * obsBound p c := by
  cases c
  case start => exact budget_doubled p .s2
  case stop => exact budget_doubled p .p2
  case write => exact writeCost_doubled ..
  case read a n =>
    refine readCost_doubled p fun h0 => h ⟨a, ?_⟩
    rw [BitVec.eq_of_toNat_eq (x := n) (y := 0) (by simpa using h0)]
  case probe => exact attemptCost_doubled ..
  case compT | compP => rfl
  all_goals
    simp only [entryCost, obsBound, retCost, calTail, writeCost_doubled, attemptCost_doubled,
      readCost_doubled, doubleBudgets_readyAttempts, Config.calLen, Config.rawLen, reduceCtorEq,
      if_true, if_false, ne_eq, OfNat.ofNat_ne_zero, one_ne_zero, not_false_eq_true]
    omega

theorem obsBound_le_entryCost (p : Params) (c : Instr) :
    2 * obsBound p c ≤ entryCost (doubleBudgets p) c := by
  by_cases h : ∃ a, c = .read a 0
  · obtain ⟨a, rfl⟩ := h
    simp [obsBound, obsRead]
  · exact (entryCost_doubled p c h).ge

/-- `CostLe` at the doubled budgets counts at least the credits. -/
theorem credit_le_stepsLeft (p : Params) (q : Seq) : q.credit p ≤ stepsLeft (doubleBudgets p) q := by
  cases q <;> simp only [Seq.credit, stepsLeft]
  case idle => rfl
  case entry c => have := obsBound_le_entryCost p c; omega
  case poll c r pt j => have := budget_doubled p pt; omega
  case polled => omega

theorem credit_le_of_costLe {n : Nat} {t : State} (h : CostLe (doubleBudgets t.params) n t) :
    t.credit ≤ n := by
  unfold State.credit; split
  · omega
  · rename_i hf
    rcases h with h | h
    · exact absurd h hf
    · exact (credit_le_stepsLeft ..).trans h

/-- The first step of a command leaves the credits of `O(c)` observations (R156, R214). -/
theorem cost_enter_doubled (c : Instr) (s : State) :
    CostLe (doubleBudgets s.params) (2 * obsBound s.params c) (enter c s) := by
  by_cases h : ∃ a, c = .read a 0
  · obtain ⟨a, rfl⟩ := h
    exact cost_endCmd ..
  · rw [← entryCost_doubled _ _ h]
    cases c <;> simp only [enter]
    case start => exact cost_callStart ..
    case stop => exact cost_callStop ..
    case write => exact cost_callWrite ..
    case read a n =>
      have hn : n ≠ 0 := fun h0 => h ⟨a, by rw [h0]⟩
      rw [if_neg hn]
      exact cost_callRead _ _ _ _ _ (Nat.pos_of_ne_zero fun h0 => hn (BitVec.eq_of_toNat_eq h0))
    case probe => exact cost_callProbe ..
    case readCal => exact cost_regRead ..
    case configure => exact cost_regWrite ..
    case readRaw => exact cost_regRead ..
    case init => exact cost_callProbe ..
    case compT => exact cost_unlessFaulted_endCmd ..
    case compP => exact cost_unlessFaulted_endCmd ..
    case acquire => exact cost_regRead ..

/-! ## The bound kept by every turn -/

/-- What has been counted and what the credits left still pay for stay within `obs` observations and
`steps` sequencer steps. -/
structure Within (obs steps : Nat) (s : State) : Prop where
  steps : s.counts.2 + s.credit ≤ steps
  observations : 2 * s.counts.1 + s.credit ≤ 2 * obs + s.seq.runsNext

/-- An observation spends both its credits, but for the one that the step after its poll takes over. -/
theorem observeStep_spends {c : Instr} {r : Ret} {pt : Point} {j : Nat} {s : State}
    (hf : s.faulted = false) (hq : s.seq = .poll c r pt j) :
    (observeStep c r pt j s).credit + 2 ≤ s.credit + (observeStep c r pt j s).seq.runsNext := by
  have hcredit : ∀ q : Seq, (s.countObservation.setSeq q).credit = q.credit s.params :=
    fun _ => credit_of_running hf
  rw [credit_of_running hf, hq]
  unfold observeStep; dsimp only
  split_ifs <;> simp only [hcredit, setSeq_seq, Seq.credit, Seq.runsNext] <;> omega

section
variable {obs steps : Nat} {s t : State}

/-- A step that makes `o` observations keeps within the bounds if it spends a credit, and two for each
observation, but for the one left for a run of actions. -/
theorem Within.spend {o : Nat} (h : Within obs steps s)
    (hc : t.counts = (s.counts.1 + o, s.counts.2 + 1)) (hone : t.credit + 1 ≤ s.credit)
    (htwo : t.credit + s.seq.runsNext + 2 * o ≤ s.credit + t.seq.runsNext) : Within obs steps t := by
  obtain ⟨hsteps, hobs⟩ := h
  have h1 : t.counts.1 = s.counts.1 + o := by rw [hc]
  have h2 : t.counts.2 = s.counts.2 + 1 := by rw [hc]
  constructor <;> omega

/-- A run of actions is one step, paid with the credit left for it, and no observation. -/
theorem Within.of_actions {n : Nat} (h : Within obs steps s) (hs : s.credit = n + 1)
    (hr : s.seq.runsNext = 1) (hc : t.counts = s.countSeqStep.counts) (hp : t.params = s.params)
    (ht : CostLe (doubleBudgets s.params) n t) : Within obs steps t := by
  have hle : t.credit ≤ n := credit_le_of_costLe (hp ▸ ht)
  exact h.spend (o := 0) hc (by omega) (by omega)

/-- An observation is one step and one observation more. -/
theorem Within.of_observation {c : Instr} {r : Ret} {pt : Point} {j : Nat} (h : Within obs steps s)
    (hf : s.faulted = false) (hq : s.seq = .poll c r pt j) :
    Within obs steps (observeStep c r pt j s.countSeqStep) := by
  have hspend : _ ≤ s.credit + _ := observeStep_spends (s := s.countSeqStep) hf hq
  have hle := runsNext_le_one (observeStep c r pt j s.countSeqStep).seq
  have hr : s.seq.runsNext = 0 := by rw [hq]; rfl
  exact h.spend (counts_observeStep ..) (by omega) (by omega)

theorem Within.seqStep (h : Within obs steps s) (hf : s.faulted = false) :
    Within obs steps (seqStep s) := by
  have hp := (seqStep_keeps s).params
  cases hq : s.seq with
  | idle => rwa [seqStep_idle hq]
  | entry c =>
    rw [seqStep_entry hq] at hp ⊢
    exact h.of_actions (by rw [credit_of_running hf, hq]; rfl) (by rw [hq]; rfl)
      (counts_enter ..) hp (cost_enter_doubled c s.countSeqStep)
  | poll c r pt j =>
    rw [seqStep_poll hq]
    exact h.of_observation hf hq
  | polled c r pt res =>
    rw [seqStep_polled hq] at hp ⊢
    exact h.of_actions (by rw [credit_of_running hf, hq]; rfl) (by rw [hq]; rfl)
      (counts_resume ..) hp (cost_resume ..)

/-- The bus agent's part changes nothing the bound speaks of. -/
theorem Within.of_busOnly (h : Within obs steps s) (ho : BusOnly s t) : Within obs steps t := by
  obtain ⟨hsteps, hobs⟩ := h
  have hc : t.counts = s.counts := by simp [State.counts, ho.tally]
  have hcr : t.credit = s.credit := by
    unfold State.credit State.faulted; rw [ho.fault, ho.seq, ho.params]
  exact ⟨by rw [hc, hcr]; exact hsteps, by rw [hc, hcr, ho.seq]; exact hobs⟩

theorem Within.bounds (h : Within obs steps s) : s.counts.1 ≤ obs ∧ s.counts.2 ≤ steps := by
  obtain ⟨hsteps, hobs⟩ := h
  have hr := runsNext_le_one s.seq
  constructor <;> omega

end

theorem carried_within (obs steps : Nat) : Carried (Within obs steps) where
  agenda _ _ h := ⟨h.steps, h.observations⟩
  seqStep _ h _ hf := h.seqStep hf
  event e s h _ := h.of_busOnly (takeEvent_busOnly e s)
  device s _ _ _ h _ := h.of_busOnly (setBusAgent_busOnly s _)

/-- A latched command starts with two credits for each of its `O(c)` observations and one for its first
step. -/
theorem within_latched (i : Instr) (s : State) :
    Within (s.tally.observations + obsBound s.params i)
      (s.tally.seqSteps + (2 * obsBound s.params i + 1)) ((s.setCmd (encode i)).setSeq (.entry i)) := by
  have hcr : ((s.setCmd (encode i)).setSeq (.entry i)).credit ≤ 2 * obsBound s.params i + 1 := by
    unfold State.credit; split
    · exact Nat.zero_le _
    · exact Nat.le_refl _
  constructor <;> simp only [State.counts, setSeq_tally, setCmd_tally, setSeq_seq, Seq.runsNext] <;>
    omega

/-- Settles O13: the credits of `within_latched` are spent turn by turn until the command ends or
faults. -/
theorem everyCommandEndsWithinBounds : Obligations.EveryCommandEndsWithinBounds := by
  unfold Obligations.EveryCommandEndsWithinBounds
  intro i s hw ⟨hq, hf⟩
  have hexec : exec i s = .next (runCommand ((s.setCmd (encode i)).setSeq (.entry i))) := by
    rw [exec_eq_issue, issue_of_idle hw hq hf]
  obtain ⟨hobs, hsteps⟩ := ((carried_within _ _).runCommand _ (within_latched i s)).bounds
  refine ⟨_, hexec, ?_, hobs, hsteps⟩
  refine (runCommand_ends _).imp (busy_eq_false_iff _).1 fun h hn => ?_
  rw [(faulted_eq_false_iff _).2 hn] at h
  exact Bool.false_ne_true h

end Sys2Proof.Machine
end

section
/-! SUPPORT. The state family: the peripheral's primitives, one rule per case (10_state R33, R44–R47; O35,
O36, O37, O40). -/

namespace Sys2Proof.Machine

section
variable (p : Periph) (b : Byte) (v : Bool)

/-- `WriteDR` of an address byte (R44). -/
theorem writeDR_of_address (hp : p.phase = .awaitAddr) (hsb : p.sr1.sb = true) :
    p.writeDR b =
      { p with dr := b, sr1 := { p.sr1 with sb := false }, engRw := b.getLsbD 0,
               engTarget := b.extractLsb' 1 7, phase := .addrSent } := by
  simp [Periph.writeDR, hp, hsb]

/-- `WriteDR` of a data byte (R44). -/
theorem writeDR_of_data (hp : p.phase = .txReady) (haddr : p.sr1.addr = false) :
    p.writeDR b =
      { p with dr := b, sr1 := { p.sr1 with btf := false, txe := false }, phase := .txByte } := by
  simp [Periph.writeDR, hp, haddr]

/-- `WriteDR` where no byte is taken (R44). -/
theorem writeDR_of_neither (ha : ¬(p.phase = .awaitAddr ∧ p.sr1.sb = true))
    (hd : ¬(p.phase = .txReady ∧ p.sr1.addr = false)) : p.writeDR b = { p with dr := b } := by
  simp [Periph.writeDR, ha, hd]

/-- The three cases of `WriteDR`. -/
theorem writeDR_cases :
    (p.phase = .awaitAddr ∧ p.sr1.sb = true) ∨ (p.phase = .txReady ∧ p.sr1.addr = false) ∨
      (¬(p.phase = .awaitAddr ∧ p.sr1.sb = true) ∧ ¬(p.phase = .txReady ∧ p.sr1.addr = false)) := by
  tauto

/-- `WriteDR` changes no flag of `SR2`, and of `SR1` not `AF`. -/
theorem writeDR_flags :
    (p.writeDR b).dr = b ∧ (p.writeDR b).sr2 = p.sr2 ∧ (p.writeDR b).sr1.af = p.sr1.af := by
  rcases writeDR_cases p with ⟨hp, hsb⟩ | ⟨hp, haddr⟩ | ⟨ha, hd⟩
  · rw [writeDR_of_address p b hp hsb]; exact ⟨rfl, rfl, rfl⟩
  · rw [writeDR_of_data p b hp haddr]; exact ⟨rfl, rfl, rfl⟩
  · rw [writeDR_of_neither p b ha hd]; exact ⟨rfl, rfl, rfl⟩

/-- `ClearStatus` in `RX_HOLD` (R46). -/
theorem clearStatus_of_rxHold (hp : p.phase = .rxHold) :
    p.clearStatus = { p with sr1 := { p.sr1 with addr := false }, phase := .rxActive } := by
  simp [Periph.clearStatus, hp]

/-- `ClearStatus` in any other phase (R46). -/
theorem clearStatus_of_ne (hp : p.phase ≠ .rxHold) :
    p.clearStatus = { p with sr1 := { p.sr1 with addr := false } } := by
  simp [Periph.clearStatus, hp]

/-- Switching the peripheral off resets the engine (R33, 40_bus R146). -/
theorem setPE_off (hpe : p.cr.pe = true) :
    p.setPE false =
      { p with cr := Periph.reset.cr, sr1 := Periph.reset.sr1, sr2 := Periph.reset.sr2,
               phase := .idle } := by
  simp [Periph.setPE, hpe, Periph.reset]

/-- Any other write of `CTRL.EN` copies the bit (R33). -/
theorem setPE_copy (h : ¬(p.cr.pe = true ∧ v = false)) :
    p.setPE v = { p with cr := { p.cr with pe := v } } := by
  simp [Periph.setPE, h]

/-- In both cases `CR.PE` takes the bit, and `DR` and the engine's latches stay. -/
theorem setPE_keeps :
    (p.setPE v).cr.pe = v ∧ (p.setPE v).dr = p.dr ∧ (p.setPE v).engRw = p.engRw ∧
      (p.setPE v).engTarget = p.engTarget := by
  by_cases h : p.cr.pe = true ∧ v = false
  · obtain ⟨hpe, rfl⟩ := h
    rw [setPE_off p hpe]; exact ⟨rfl, rfl, rfl, rfl⟩
  · rw [setPE_copy p v h]; exact ⟨rfl, rfl, rfl, rfl⟩

end

/-- An address byte is its address above its direction bit (20_memory R86). -/
theorem addrByte_split (b : Byte) : addrByte (b.extractLsb' 1 7) (b.getLsbD 0) = b := by
  apply BitVec.eq_of_getLsbD_eq
  intro i hi
  rw [addrByte, BitVec.getLsbD_append, BitVec.getLsbD_extractLsb', BitVec.getLsbD_ofBool]
  rcases Nat.eq_zero_or_pos i with rfl | hpos
  · simp
  · have hne : ¬i < 1 := by omega
    have hlt : i - 1 < 7 := by omega
    have hsum : 1 + (i - 1) = i := by omega
    simp [hne, hlt, hsum]

/-- A second `setBus` replaces the first. -/
@[simp] theorem setBus_setBus (s : State) (p q : Periph) : (s.setBus p).setBus q = s.setBus q := rfl

/-- Settles O35. -/
theorem onlyClearAfClearsAf : Obligations.OnlyClearAfClearsAf := by
  unfold Obligations.OnlyClearAfClearsAf
  refine ⟨fun _ => rfl, fun p haf => ?_⟩
  have hwrite : ∀ b, (p.writeDR b).sr1.af = true := fun b => (writeDR_flags p b).2.2.trans haf
  exact ⟨fun e => effect_af p e haf, hwrite, haf, haf, fun _ => ⟨haf, haf, haf⟩, haf⟩

/-- Taking a byte (40_bus RD13, RD14): `RXBUF[i]` is the byte in `DR`, which `ReadDR` leaves there. -/
theorem takeByte_reads (s : State) (n : Nat) {i : Nat} (hi : i < 32) :
    (takeByte n i s).rxByte i = some s.bus.dr ∧ (takeByte n i s).bus.dr = s.bus.dr ∧
      (takeByte n i s).bus.sr1 = { s.bus.sr1 with rxne := false } := by
  have hin : txBase ≤ rxBase + i ∧ rxBase + i < bufEnd := by
    simp only [txBase, rxBase, bufEnd]; omega
  have hstored : (s.putRx i s.bus.dr).rxByte i = some s.bus.dr := memGet_put_same s.mem s.bus.dr hin
  unfold takeByte; dsimp only; split
  · exact ⟨hstored, rfl, rfl⟩
  · exact ⟨hstored, rfl, rfl⟩

/-- Settles O36. -/
theorem readDataRegister : Obligations.ReadDataRegister := by
  unfold Obligations.ReadDataRegister
  exact ⟨fun _ => rfl, fun s n _ hi => takeByte_reads s n hi⟩

/-- Settles O37. -/
theorem clearStatusStartsReception : Obligations.ClearStatusStartsReception := by
  unfold Obligations.ClearStatusStartsReception
  exact fun p => ⟨clearStatus_of_rxHold p, clearStatus_of_ne p⟩

/-- Settles O40: each conjunct is the case of `WriteDR` it speaks of. -/
theorem writeDataRegister : Obligations.WriteDataRegister := by
  unfold Obligations.WriteDataRegister
  intro p b
  obtain ⟨hdr, hsr2, -⟩ := writeDR_flags p b
  refine ⟨hdr, writeDR_cr p b, hsr2, fun hp hsb => ?_, fun hp haddr => ?_, writeDR_of_neither p b⟩
  · rw [writeDR_of_address p b hp hsb]
    exact ⟨rfl, rfl, addrByte_split b⟩
  · rw [writeDR_of_data p b hp haddr]
    exact ⟨rfl, rfl, rfl, rfl⟩

end Sys2Proof.Machine
end

section
/-! SUPPORT. The state family: what every reachable state looks like is kept by every step (O56, O57).
The sequencer is made of a few actions (10_state R37–R60); a property that survives each of them
survives its every step. -/

namespace Sys2Proof.Machine

/-! ## The sequencer's actions -/

/-- The peripheral primitives that change the peripheral (10_state R44–R48). -/
inductive Primitive : (Periph → Periph) → Prop where
  | setStart (v : Bool) : Primitive (·.setStart v)
  | setStop (v : Bool) : Primitive (·.setStop v)
  | setAck (v : Bool) : Primitive (·.setAck v)
  | writeDR (b : Byte) : Primitive (·.writeDR b)
  | readDR : Primitive Periph.readDR
  | clearStatus : Primitive Periph.clearStatus
  | clearAF : Primitive Periph.clearAF

/-- What carries a property through every step of the sequencer: it survives each action that the
pseudocode of 40_bus, 41_sensor and 42_compensation is made of. -/
structure ActionClosed (P : State → Prop) : Prop where
  seq : ∀ {s} q, P s → P (s.setSeq q)
  outcome : ∀ {s} o, P s → P (s.setOutcome o)
  ready : ∀ {s} b, P s → P (s.setReady b)
  tally : ∀ {s} n, P s → P (s.setTally n)
  draws : ∀ {s} n, P s → P (s.setDraws n)
  raised : ∀ {s} c i, P s → P (raiseFault c i s)
  txByte : ∀ {s} j b, P s → P (s.putTx j b)
  rxByte : ∀ {s} j b, P s → P (s.putRx j b)
  onBus : ∀ {s f}, Primitive f → P s → P (s.onBus f)
  cal : ∀ {s} c, P s → P (s.setData { s.data with cal := some c, tfineFresh := false })
  raw : ∀ {s} r, P s → P (s.setData { s.data with raw := some r, tfineFresh := false })
  lastId : ∀ {s} b, P s → P (s.setData { s.data with lastId := some b })
  temp : ∀ {s c r}, s.data.cal = some c → s.data.raw = some r → P s →
    P (s.setData { s.data with
      tfine := some (compTemp c r.t).1, temp := some (compTemp c r.t).2, tfineFresh := true })
  pres : ∀ {s} v, P s → P (s.setData { s.data with pres := some v })

/-- A property kept by what a step goes on with is kept by the step (60_exceptions R263). -/
theorem of_unlessFaulted {P : State → Prop} {f : State → State} {s : State}
    (hf : ∀ {t}, P t → P (f t)) (h : P s) : P (unlessFaulted f s) := by
  unfold unlessFaulted; split
  · exact h
  · exact hf h

namespace ActionClosed
variable {P : State → Prop} (hP : ActionClosed P) {s : State}
include hP

theorem endCmd (h : P s) : P (endCmd s) := hP.seq _ h

/-! ### Transport (40_bus R150–R154) -/

theorem beginPoll (c : Instr) (r : Ret) (pt : Point) (h : P s) : P (beginPoll c r pt s) := hP.seq _ h

theorem callStart (c : Instr) (r : Ret) (pt : Point) (h : P s) : P (callStart c r pt s) :=
  hP.beginPoll _ _ _ (hP.onBus (.setStart true) (hP.tally _ h))

theorem callStop (c : Instr) (r : Ret) (pt : Point) (h : P s) : P (callStop c r pt s) :=
  hP.beginPoll _ _ _ (hP.onBus (.setStop true) h)

theorem callWrite (c : Instr) (r : Ret) (a : Addr7) (n : Nat) (h : P s) : P (callWrite c r a n s) := by
  unfold Machine.callWrite; split
  · exact hP.raised _ _ h
  · exact hP.callStart _ _ _ h

theorem sendByte (c : Instr) (r : Ret) (a : Addr7) (n i : Nat) (h : P s) :
    P (sendByte c r a n i s) := by
  unfold Machine.sendByte; split
  · split
    · exact hP.beginPoll _ _ _ (hP.onBus (.writeDR _) h)
    · exact hP.raised _ _ h
  · exact hP.callStop _ _ _ h

theorem armReceive (n : Nat) (h : P s) : P (s.onBus (armReceive n)) := by
  have hclear := hP.onBus .clearStatus h
  by_cases hn : n = 1
  · have hlast := hP.onBus (.setStop true) (hP.onBus (.setAck false) hclear)
    simpa [State.onBus, Machine.armReceive, hn] using hlast
  · have hmore := hP.onBus (.setAck true) hclear
    simpa [State.onBus, Machine.armReceive, hn] using hmore

theorem takeByte (n i : Nat) (h : P s) : P (takeByte n i s) := by
  have hread := hP.onBus .readDR (hP.rxByte i s.bus.dr h)
  have hlast := hP.onBus (.setStop true) (hP.onBus (.setAck false) hread)
  unfold Machine.takeByte; dsimp only; split
  · exact hlast
  · exact hread

/-! ### Compensation (42_compensation R236, R240, R244) -/

theorem runCompT (h : P s) : P (runCompT s) := by
  rcases runCompT_cases s with ⟨-, e⟩ | ⟨-, -, e⟩ | ⟨c, r, hc, hr, e⟩ <;> rw [e]
  · exact hP.raised _ _ h
  · exact hP.raised _ _ h
  · exact hP.temp hc hr h

theorem runCompP (h : P s) : P (runCompP s) := by
  rcases runCompP_cases s with ⟨-, e⟩ | ⟨-, -, e⟩ | ⟨-, -, -, e⟩ | ⟨-, -, -, -, e⟩ |
    ⟨_, _, _, -, -, -, -, e⟩ <;> rw [e]
  case inr.inr.inr.inr => exact hP.pres _ h
  all_goals exact hP.raised _ _ h

theorem acquireRest (h : P s) : P (acquireRest s) :=
  of_unlessFaulted hP.endCmd (of_unlessFaulted hP.runCompP (hP.runCompT h))

/-! ### The sensor commands (41_sensor R201–R211) -/

theorem callRegWrite (c : Instr) (ret : Ret) (r v : Byte) (h : P s) : P (callRegWrite c ret r v s) :=
  hP.callWrite _ _ _ _ (hP.txByte _ _ (hP.txByte _ _ h))

theorem callRegRead (c : Instr) (ret : Ret) (r : Byte) (h : P s) : P (callRegRead c ret r s) :=
  hP.callWrite _ _ _ _ (hP.txByte _ _ h)

theorem calUpdate (o : TxOutcome) (h : P s) : P (calUpdate o s) := by
  cases o
  · exact hP.cal _ h
  · exact h
  · exact h

theorem drawRaw (h : P s) : P (drawRaw s) := hP.raw _ (hP.draws _ (hP.draws _ h))

theorem rawUpdate (o : TxOutcome) (h : P s) : P (rawUpdate o s) := by
  cases o
  · exact hP.raw _ h
  · exact hP.drawRaw h
  · exact hP.drawRaw h

theorem idUpdate (o : TxOutcome) (h : P s) : P (idUpdate o s) := by
  cases o
  · exact hP.lastId _ h
  · exact hP.lastId _ (hP.draws _ h)
  · exact hP.lastId _ (hP.draws _ h)

theorem calDone (c : Instr) (o : TxOutcome) (h : P s) : P (calDone c o s) := by
  unfold Machine.calDone; split
  · exact hP.callRegWrite _ _ _ _ (hP.calUpdate o h)
  · exact hP.endCmd (hP.calUpdate o h)

theorem rawDone (c : Instr) (o : TxOutcome) (h : P s) : P (rawDone c o s) := by
  unfold Machine.rawDone; split
  · exact hP.acquireRest (hP.rawUpdate o h)
  · exact hP.endCmd (hP.rawUpdate o h)

theorem idDone (c : Instr) (o : TxOutcome) (h : P s) : P (idDone c o s) := by
  unfold Machine.idDone; dsimp only; split
  · exact hP.callRegRead _ _ _ (hP.idUpdate o h)
  · exact hP.endCmd (hP.idUpdate o h)

/-! ### Returns (R14, R58, R59) -/

theorem returnProbe (c : Instr) (r : Ret) (b : Bool) (h : P s) : P (returnProbe c r b s) := by
  have hready := hP.ready b h
  cases r
  case i1 =>
    cases b
    · exact hP.endCmd hready
    · exact hP.callRegRead _ _ _ hready
  all_goals exact hP.endCmd hready

theorem returnWrite (c : Instr) (r : Ret) (o : TxOutcome) (h : P s) : P (returnWrite c r o s) := by
  have hout := hP.outcome o h
  cases r <;> simp only [Machine.returnWrite]
  case g1 => exact hP.callRegWrite _ _ _ _ hout
  case c1Ptr =>
    split
    · exact hP.callStart _ _ _ hout
    · exact hP.calDone _ _ hout
  case m1Ptr =>
    split
    · exact hP.callStart _ _ _ hout
    · exact hP.rawDone _ _ hout
  case i3Ptr =>
    split
    · exact hP.callStart _ _ _ hout
    · exact hP.idDone _ _ hout
  all_goals exact hP.endCmd hout

theorem returnRead (c : Instr) (r : Ret) (o : TxOutcome) (h : P s) : P (returnRead c r o s) := by
  have hout := hP.outcome o h
  cases r
  case c1Burst => exact hP.calDone _ _ hout
  case m1Burst => exact hP.rawDone _ _ hout
  case i3Burst => exact hP.idDone _ _ hout
  all_goals exact hP.endCmd hout

theorem callProbe (c : Instr) (r : Ret) (a : Addr7) (m : Nat) (h : P s) : P (callProbe c r a m s) := by
  unfold Machine.callProbe; split
  · exact hP.returnProbe _ _ _ h
  · exact hP.callStart _ _ _ h

theorem nextAttempt (c : Instr) (r : Ret) (a : Addr7) (m k : Nat) (h : P s) :
    P (nextAttempt c r a m k s) := by
  unfold Machine.nextAttempt; split
  · exact hP.callStart _ _ _ h
  · exact hP.returnProbe _ _ _ h

/-! ### The sequencer's steps (R39) -/

theorem afterW4 (c : Instr) (r : Ret) (a : Addr7) (n : Nat) (res : Option Obs) (h : P s) :
    P (afterW4 c r a n res s) := by
  unfold Machine.afterW4; split
  · exact hP.callStop _ _ _ h
  · split
    · exact hP.callStop _ _ _ (hP.onBus .clearAF h)
    · exact hP.sendByte _ _ _ _ _ (hP.onBus .clearStatus h)

theorem afterRd5 (c : Instr) (r : Ret) (a : Addr7) (n : Nat) (res : Option Obs) (h : P s) :
    P (afterRd5 c r a n res s) := by
  unfold Machine.afterRd5; split
  · exact hP.callStop _ _ _ h
  · split
    · exact hP.callStop _ _ _ (hP.onBus .clearAF h)
    · exact hP.beginPoll _ _ _ (hP.armReceive n h)

theorem afterRd11 (c : Instr) (r : Ret) (a : Addr7) (n i : Nat) (res : Option Obs) (h : P s) :
    P (afterRd11 c r a n i res s) := by
  unfold Machine.afterRd11; split
  · exact hP.callStop _ _ _ h
  · split
    · exact hP.beginPoll _ _ _ (hP.takeByte n i h)
    · exact hP.returnRead _ _ _ (hP.takeByte n i h)

theorem afterQ5 (c : Instr) (r : Ret) (a : Addr7) (m k : Nat) (res : Option Obs) (h : P s) :
    P (afterQ5 c r a m k res s) := by
  unfold Machine.afterQ5; split
  · exact hP.callStop _ _ _ h
  · split
    · exact hP.callStop _ _ _ (hP.onBus .clearStatus h)
    · exact hP.callStop _ _ _ (hP.onBus .clearAF h)

theorem resume (c : Instr) (r : Ret) (pt : Point) (res : Option Obs) (h : P s) :
    P (resume c r pt res s) := by
  cases pt <;> simp only [Machine.resume]
  case s2 | p2 => exact hP.endCmd (hP.outcome _ h)
  case w1 | rd2 =>
    split
    · exact hP.beginPoll _ _ _ (hP.onBus (.writeDR _) h)
    · exact hP.callStop _ _ _ h
  case w4 => exact hP.afterW4 _ _ _ _ _ h
  case w10 =>
    split
    · exact hP.sendByte _ _ _ _ _ h
    · exact hP.callStop _ _ _ h
  case wStop => exact hP.returnWrite _ _ _ h
  case rd5 => exact hP.afterRd5 _ _ _ _ _ h
  case rd11 => exact hP.afterRd11 _ _ _ _ _ _ h
  case rdStop => exact hP.returnRead _ _ _ h
  case q2 =>
    split
    · exact hP.beginPoll _ _ _ (hP.onBus (.writeDR _) h)
    · exact hP.nextAttempt _ _ _ _ _ h
  case q5 => exact hP.afterQ5 _ _ _ _ _ _ h
  case qStop =>
    split
    · exact hP.returnProbe _ _ _ h
    · exact hP.nextAttempt _ _ _ _ _ h

theorem enter (c : Instr) (h : P s) : P (enter c s) := by
  cases c <;> simp only [Machine.enter]
  case start => exact hP.callStart _ _ _ h
  case stop => exact hP.callStop _ _ _ h
  case write => exact hP.callWrite _ _ _ _ h
  case read =>
    split
    · exact hP.endCmd (hP.outcome _ h)
    · exact hP.callStart _ _ _ h
  case probe | init => exact hP.callProbe _ _ _ _ h
  case readCal | readRaw | acquire => exact hP.callRegRead _ _ _ h
  case configure => exact hP.callRegWrite _ _ _ _ h
  case compT => exact of_unlessFaulted hP.endCmd (hP.runCompT h)
  case compP => exact of_unlessFaulted hP.endCmd (hP.runCompP h)

theorem observeStep (c : Instr) (r : Ret) (pt : Point) (j : Nat) (h : P s) :
    P (observeStep c r pt j s) := by
  have hcount := hP.tally { s.tally with observations := s.tally.observations + 1 } h
  unfold Machine.observeStep; dsimp only; split
  · exact hP.seq _ hcount
  · split
    · exact hP.seq _ hcount
    · exact hP.seq _ hcount

/-- What every action keeps, every sequencer step keeps. -/
theorem seqStep (h : P s) : P (seqStep s) := by
  have hcount := hP.tally { s.tally with seqSteps := s.tally.seqSteps + 1 } h
  cases hq : s.seq with
  | idle => rwa [seqStep_idle hq]
  | entry c => rw [seqStep_entry hq]; exact hP.enter _ hcount
  | poll c r pt j => rw [seqStep_poll hq]; exact hP.observeStep _ _ _ _ hcount
  | polled c r pt res => rw [seqStep_polled hq]; exact hP.resume _ _ _ _ hcount

end ActionClosed

/-! ## The engine's flags agree with its phase (10_state R43, R51) -/

/-- At rest a disabled peripheral's `SR1` flags must stay 0; otherwise they are free. -/
theorem coherent_setSr1 {p : Periph} (h : p.coherent) (r : SR1)
    (hr : p.sr1 = Periph.reset.sr1 → r = Periph.reset.sr1) : Periph.coherent { p with sr1 := r } := by
  obtain ⟨hidle, hmsl, htra, hrest⟩ := h
  refine ⟨hidle, hmsl, htra, fun hpe => ?_⟩
  obtain ⟨hphase, hsr1, hsr2⟩ := hrest hpe
  exact ⟨hphase, hr hsr1, hsr2⟩

/-- Outside `IDLE` the bus is held and the peripheral enabled. -/
theorem held_of_active {p : Periph} (h : p.coherent) (hp : p.phase ≠ .idle) :
    p.sr2.busy = true ∧ p.cr.pe = true := by
  obtain ⟨hidle, -, -, hrest⟩ := h
  have hbusy : p.sr2.busy ≠ false := fun hb => hp (hidle.2 hb)
  have hpe : p.cr.pe ≠ false := fun he => hp (hrest he).1
  exact ⟨by simpa using hbusy, by simpa using hpe⟩

/-- Moving on within a transfer, from one phase outside `IDLE` to another, keeps the agreement, whatever
the direction and the flags of `SR1` become. -/
theorem coherent_of_active {p q : Periph} (h : p.coherent) (hp : p.phase ≠ .idle)
    (hq : q.phase ≠ .idle) (hmsl : q.sr2.msl = p.sr2.msl) (hbusy : q.sr2.busy = p.sr2.busy)
    (hpe : q.cr.pe = p.cr.pe) : q.coherent := by
  obtain ⟨hheld, henabled⟩ := held_of_active h hp
  obtain ⟨-, hm, -⟩ := h
  rw [← hbusy] at hheld
  rw [← hpe] at henabled
  have hmaster : q.sr2.msl = q.sr2.busy := by rw [hmsl, hbusy, hm]
  exact ⟨by simp [hq, hheld], hmaster, fun _ => hheld, by simp [henabled]⟩

/-- Every primitive keeps the flags and the phase in agreement. -/
theorem Primitive.coherent {f : Periph → Periph} (hf : Primitive f) {p : Periph} (h : p.coherent) :
    (f p).coherent := by
  cases hf
  case setStart | setStop | setAck => exact h
  case readDR => exact coherent_setSr1 h _ fun e => by rw [e]; rfl
  case clearAF => exact coherent_setSr1 h _ fun e => by rw [e]; rfl
  case clearStatus =>
    by_cases hp : p.phase = .rxHold
    · rw [clearStatus_of_rxHold p hp]
      exact coherent_of_active h (by simp [hp]) (by simp) rfl rfl rfl
    · rw [clearStatus_of_ne p hp]
      exact coherent_setSr1 h _ fun e => by rw [e]; rfl
  case writeDR b =>
    change (p.writeDR b).coherent
    rcases writeDR_cases p with ⟨hp, hsb⟩ | ⟨hp, haddr⟩ | ⟨ha, hd⟩
    · rw [writeDR_of_address p b hp hsb]
      exact coherent_of_active h (by simp [hp]) (by simp) rfl rfl rfl
    · rw [writeDR_of_data p b hp haddr]
      exact coherent_of_active h (by simp [hp]) (by simp) rfl rfl rfl
    · rw [writeDR_of_neither p b ha hd]
      exact h

/-- Every enabled event keeps the flags and the phase in agreement (40_bus R146). -/
theorem effect_coherent {p : Periph} {e : BusEvent} (he : e.enabled p = true) (h : p.coherent) :
    (e.effect p).coherent := by
  have hpe : p.cr.pe = true := by
    by_contra hpe
    rw [enabled_false_of_pe p e (by simpa using hpe)] at he
    exact Bool.false_ne_true he
  cases e
  case start => simp [BusEvent.effect, Periph.coherent, hpe]
  case stop => simp [BusEvent.effect, Periph.coherent, hpe]
  case addrAck =>
    have hp : p.phase = .addrSent := by simpa [BusEvent.enabled, hpe] using he
    unfold BusEvent.effect; dsimp only; split
    · exact coherent_of_active h (by simp [hp]) (by simp) rfl rfl rfl
    · exact coherent_of_active h (by simp [hp]) (by simp) rfl rfl rfl
  case addrNack =>
    have hp : p.phase = .addrSent := by simpa [BusEvent.enabled, hpe] using he
    exact coherent_of_active h (by simp [hp]) (by simp [BusEvent.effect]) rfl rfl rfl
  case txAck | txNack =>
    have hp : p.phase = .txByte := by simpa [BusEvent.enabled, hpe] using he
    exact coherent_of_active h (by simp [hp]) (by simp [BusEvent.effect]) rfl rfl rfl
  case rx b =>
    have hp : p.phase = .rxActive ∧ p.sr1.rxne = false := by simpa [BusEvent.enabled, hpe] using he
    refine coherent_of_active h (by simp [hp.1]) ?_ rfl rfl rfl
    simp only [BusEvent.effect]; split <;> simp

/-- A write of `CTRL` keeps them in agreement: switching the peripheral off puts the engine at rest
(10_state R33). -/
theorem setPE_coherent {p : Periph} (v : Bool) (h : p.coherent) : (p.setPE v).coherent := by
  by_cases hoff : p.cr.pe = true ∧ v = false
  · obtain ⟨hpe, rfl⟩ := hoff
    rw [setPE_off p hpe]
    simp [Periph.coherent, Periph.reset]
  · rw [setPE_copy p v hoff]
    obtain ⟨hidle, hmsl, htra, hrest⟩ := h
    refine ⟨hidle, hmsl, htra, fun hv => hrest ?_⟩
    simpa using fun hpe => hoff ⟨hpe, hv⟩

/-! ## The invariant -/

/-- What the sequencer's actions keep of `Inv`: the engine's flags agree with its phase, and
`TFINE_FRESH` means what it says (10_state R51, R56). -/
abbrev Consistent (s : State) : Prop := s.bus.coherent ∧ s.data.coherent

/-- With `TFINE_FRESH` 0 there is nothing to say of `TFINE` and `TEMP`. -/
theorem coherent_of_stale {d : Readings} (h : d.tfineFresh = false) : d.coherent := by
  intro hfresh
  rw [h] at hfresh
  exact absurd hfresh Bool.false_ne_true

theorem actionClosed_consistent : ActionClosed Consistent where
  seq _ h := h
  outcome _ h := h
  ready _ h := h
  tally _ h := h
  draws _ h := h
  raised _ _ h := h
  txByte _ _ h := h
  rxByte _ _ h := h
  onBus hf h := ⟨hf.coherent h.1, h.2⟩
  cal _ h := ⟨h.1, coherent_of_stale rfl⟩
  raw _ h := ⟨h.1, coherent_of_stale rfl⟩
  lastId _ h := h
  temp hc hr h := ⟨h.1, fun _ => ⟨_, _, hc, hr, rfl, rfl⟩⟩
  pres _ h := h

theorem inv_reset : Inv State.reset where
  mem := reset_mem_wf
  en := rfl
  bus := by simp [State.reset, Periph.coherent, Periph.reset]
  data := coherent_of_stale rfl
  seq := trivial
  device _ h := by cases h
  vars := List.Pairwise.nil

theorem inv_seqStep {s : State} (h : Inv s) : Inv (seqStep s) := by
  have hk := seqStep_keeps s
  obtain ⟨hbus, hdata⟩ := actionClosed_consistent.seqStep ⟨h.bus, h.data⟩
  exact {
    mem := hk.wf h.mem
    en := by rw [hk.ctrlEn, hk.pe, h.en]
    bus := hbus
    data := hdata
    seq := seqStep_legal s h.seq
    device := by rw [hk.busAgent]; exact h.device
    vars := by rw [hk.host]; exact h.vars }

theorem inv_takeEvent {e : BusEvent} {s : State} (h : Inv s) (he : e.enabled s.bus = true) :
    Inv (takeEvent e s) := by
  have ho := takeEvent_busOnly e s
  have hbus : (takeEvent e s).bus = e.effect s.bus := by simp [takeEvent, he]
  exact {
    mem := by rw [ho.mem]; exact h.mem
    en := by rw [ho.ctrlEn, ho.pe, h.en]
    bus := by rw [hbus]; exact effect_coherent he h.bus
    data := by rw [ho.data]; exact h.data
    seq := by rw [ho.seq, ho.params]; exact h.seq
    device := by rw [takeEvent_busAgent]; exact h.device
    vars := by rw [ho.host]; exact h.vars }

/-- A reset takes the core's own part to its reset value and leaves the host and the device (R291). -/
theorem inv_powerReset {s : State} (h : Inv s) : Inv (powerReset s) :=
  { inv_reset with seq := trivial, device := h.device, vars := h.vars }

/-- `Inv` survives every part of a step. -/
theorem invariant_inv : Invariant Inv where
  agenda _ _ h := { h with }
  seqStep _ h _ _ := inv_seqStep h
  event _ _ h he := inv_takeEvent h he
  device s d b e h hd := { h with
    device := fun d' hd' => by cases hd'; exact RefDevice.after_wf _ _ _ _ (h.device d hd) }
  reset _ h := inv_powerReset h
  goto _ _ h := { h with }
  await _ h := { h with }
  var _ x v h := { h with vars := cellsPut_sorted _ x v h.vars }
  draws _ _ h := { h with }
  raised _ _ _ h _ := { h with }
  cmd _ _ h _ := { h with }
  entry _ _ h _ _ hw := { h with seq := hw }
  ctrl _ b h _ := { h with en := (setPE_keeps ..).1.symm, bus := setPE_coherent b h.bus }
  txByte s j b h _ := { h with mem := putTx_wf s j b h.mem }

/-- Settles O56: `Inv` is an `Invariant`, which the step keeps. -/
theorem stepKeepsInv : Obligations.StepKeepsInv := by
  unfold Obligations.StepKeepsInv
  exact fun _ _ h hs => invariant_inv.step h hs

/-- Settles O57. -/
theorem resetInv : Obligations.ResetInv := inv_reset

end Sys2Proof.Machine
end

section
/-! SUPPORT. The state family: the host window's registers (10_state R32–R36, R54; 20_memory R81, R93;
O41, O42, O47, O49, O51). -/

namespace Sys2Proof.Machine

/-! ## The bits of a register word -/

theorem getLsbD_bitAt {w k : Nat} (b : Bool) (i : Nat) (hk : k < w) :
    (bitAt w k b).getLsbD i = (b && decide (i = k)) := by
  cases b
  · simp [bitAt]
  · rw [bitAt, if_pos rfl, BitVec.getLsbD_ofNat, Nat.testBit_two_pow, Bool.true_and]
    by_cases hi : i = k
    · simp [hi, hk]
    · simp [hi, Ne.symm hi]

/-- Bit 0 alone is what a mask of 1 leaves (R33). -/
theorem bitAt_zero_eq_and_one (v : Word) : bitAt 32 0 (v.getLsbD 0) = v &&& 1 := by
  apply BitVec.eq_of_getLsbD_eq
  intro i _
  rw [getLsbD_bitAt _ _ (by omega), BitVec.getLsbD_and]
  by_cases hi : i = 0
  · subst hi; simp
  · simp [hi, BitVec.getLsbD_one]

/-- An outcome's number has two bits (R32). -/
theorem code_getLsbD (o : TxOutcome) {i : Nat} (hi : 2 ≤ i) : o.code.getLsbD i = false := by
  have hlt : o.code.toNat < 2 ^ i :=
    Nat.lt_of_lt_of_le (by cases o <;> decide) (Nat.pow_le_pow_right (by omega) hi)
  exact Nat.testBit_lt_two_pow hlt

/-- Every bit of `STATUS` (R32). -/
theorem statusWord_getLsbD (s : State) {i : Nat} (hi : i < 32) :
    s.statusWord.getLsbD i =
      ((s.busy && decide (i = 0)) || (decide (1 ≤ i) && s.outcome.code.getLsbD (i - 1)) ||
        (s.ready && decide (i = 3)) || (s.data.cal.isSome && decide (i = 4)) ||
        (s.data.raw.isSome && decide (i = 5)) || (s.data.tfineFresh && decide (i = 6)) ||
        (s.faulted && decide (i = 7))) := by
  simp only [State.statusWord, BitVec.getLsbD_or, BitVec.getLsbD_shiftLeft, getLsbD_bitAt, hi,
    Nat.reduceLT, decide_true, Bool.true_and, Nat.lt_one_iff, Nat.one_le_iff_ne_zero, ne_eq,
    decide_not]

/-- The bits of `STATUS` above `OUTCOME` (R32). -/
theorem statusWord_getLsbD_flags (s : State) {i : Nat} (hi : i < 32) (hge : 3 ≤ i) :
    s.statusWord.getLsbD i =
      ((s.ready && decide (i = 3)) || (s.data.cal.isSome && decide (i = 4)) ||
        (s.data.raw.isSome && decide (i = 5)) || (s.data.tfineFresh && decide (i = 6)) ||
        (s.faulted && decide (i = 7))) := by
  have hcode := code_getLsbD s.outcome (i := i - 1) (by omega)
  have hne : i ≠ 0 := by omega
  rw [statusWord_getLsbD s hi, hcode]
  simp [hne]

/-- The `OUTCOME` field of `STATUS` (R32). -/
theorem statusWord_outcome (s : State) :
    s.statusWord.extractLsb' 1 2 = s.outcome.code.setWidth 2 := by
  apply BitVec.eq_of_getLsbD_eq
  intro i hi
  rw [BitVec.getLsbD_extractLsb', BitVec.getLsbD_setWidth, statusWord_getLsbD s (by omega)]
  obtain rfl | rfl : i = 0 ∨ i = 1 := by omega
  · simp
  · simp

/-- The reserved bits of `STATUS` (R32). -/
theorem statusWord_reserved (s : State) : s.statusWord.extractLsb' 8 24 = 0 := by
  apply BitVec.eq_of_getLsbD_eq
  intro i hi
  have hfield : ∀ k, k < 8 → ¬8 + i = k := by omega
  rw [BitVec.getLsbD_extractLsb', statusWord_getLsbD_flags s (by omega) (by omega)]
  simp [hfield]

/-- Settles O42: each field by its bits. -/
theorem statusFields : Obligations.StatusFields := by
  unfold Obligations.StatusFields
  intro s
  refine ⟨?_, ?_, ?_, ?_, ?_, ?_, ?_, statusWord_reserved s⟩
  case refine_1 => rw [statusWord_getLsbD s (by omega)]; simp
  case refine_2 => rw [statusWord_outcome]; cases s.outcome <;> rfl
  all_goals rw [statusWord_getLsbD_flags s (by omega) (by omega)]; simp

/-! ## The bytes of a word (20_memory R93) -/

theorem toNat_wordByte (w : Word) (k : Nat) : (wordByte w k).toNat = w.toNat / 2 ^ (8 * k) % 256 := by
  rw [wordByte, BitVec.extractLsb'_toNat, Nat.shiftRight_eq_div_pow]

/-- A value with a byte below it, as a number. -/
theorem toNat_append_byte {w : Nat} (x : BitVec w) (b : Byte) :
    (x ++ b).toNat = x.toNat * 256 + b.toNat := by
  rw [BitVec.toNat_append, ← Nat.shiftLeft_add_eq_or_of_lt b.isLt, Nat.shiftLeft_eq]

theorem toNat_bytesWord (b0 b1 b2 b3 : Byte) :
    (bytesWord b0 b1 b2 b3).toNat =
      ((b3.toNat * 256 + b2.toNat) * 256 + b1.toNat) * 256 + b0.toNat := by
  simp only [bytesWord, toNat_append_byte]

theorem wordByte_bytesWord (b : Nat → Byte) {k : Nat} (hk : k < 4) :
    wordByte (bytesWord (b 0) (b 1) (b 2) (b 3)) k = b k := by
  have h0 := (b 0).isLt
  have h1 := (b 1).isLt
  have h2 := (b 2).isLt
  have h3 := (b 3).isLt
  apply BitVec.eq_of_toNat_eq
  rw [toNat_wordByte, toNat_bytesWord]
  interval_cases k <;> omega

theorem bytesWord_wordByte (v : Word) :
    bytesWord (wordByte v 0) (wordByte v 1) (wordByte v 2) (wordByte v 3) = v := by
  have hv := v.isLt
  apply BitVec.eq_of_toNat_eq
  simp only [toNat_bytesWord, toNat_wordByte]
  omega

/-! ## The window map and its inverse (20_memory R81) -/

/-- The registers the window has: twelve of the calibration, eight words of each buffer. -/
def Reg.inWindow : Reg → Bool
  | .cal k => decide (k < 12)
  | .tx w => decide (w < 8)
  | .rx w => decide (w < 8)
  | _ => true

/-- The window offset of a register (R81). -/
def Reg.offset : Reg → Nat
  | .cmd => 0x00
  | .status => 0x04
  | .ctrl => 0x08
  | .fault => 0x0C
  | .temp => 0x10
  | .pres => 0x14
  | .tfine => 0x18
  | .rawT => 0x1C
  | .rawP => 0x20
  | .lastId => 0x24
  | .cal k => 0x40 + 4 * k
  | .tx w => txBase + 4 * w
  | .rx w => rxBase + 4 * w

theorem regAt_offset {g : Reg} (hg : g.inWindow = true) : regAt g.offset = some g := by
  cases g
  case cal k =>
    have hk : k < 12 := by simpa [Reg.inWindow] using hg
    interval_cases k <;> rfl
  case tx w =>
    have hw : w < 8 := by simpa [Reg.inWindow] using hg
    interval_cases w <;> rfl
  case rx w =>
    have hw : w < 8 := by simpa [Reg.inWindow] using hg
    interval_cases w <;> rfl
  all_goals rfl

/-- A mapped offset is the offset of a register of the window. -/
theorem exists_offset {off : Nat} (h : MappedOffset off) :
    ∃ g : Reg, g.inWindow = true ∧ off = g.offset := by
  obtain ⟨halign, hlow | ⟨hcal, hcal'⟩ | ⟨hbuf, hbuf'⟩⟩ := h
  · have hword : off / 4 < 10 := by omega
    have hoff : off = 4 * (off / 4) := by omega
    generalize off / 4 = q at *
    subst hoff
    interval_cases q
    exacts [⟨.cmd, rfl, rfl⟩, ⟨.status, rfl, rfl⟩, ⟨.ctrl, rfl, rfl⟩, ⟨.fault, rfl, rfl⟩,
      ⟨.temp, rfl, rfl⟩, ⟨.pres, rfl, rfl⟩, ⟨.tfine, rfl, rfl⟩, ⟨.rawT, rfl, rfl⟩,
      ⟨.rawP, rfl, rfl⟩, ⟨.lastId, rfl, rfl⟩]
  · exact ⟨.cal ((off - 0x40) / 4), decide_eq_true (by omega), by simp only [Reg.offset]; omega⟩
  · by_cases htx : off < 0xA0
    · exact ⟨.tx ((off - 0x80) / 4), decide_eq_true (by omega),
        by simp only [Reg.offset, txBase]; omega⟩
    · exact ⟨.rx ((off - 0xA0) / 4), decide_eq_true (by omega),
        by simp only [Reg.offset, rxBase]; omega⟩

/-- A 32-bit access at a register's offset reaches it (R82). -/
theorem accessReg_offset {g : Reg} {off : Word} (hg : g.inWindow = true) (hoff : off.toNat = g.offset) :
    accessReg 4 off = some g := by
  rw [accessReg, if_pos rfl, hoff, regAt_offset hg]

/-- Writing a mapped register of a core that has no fault. -/
theorem hostWrite_offset {g : Reg} {off v : Word} {s : State} (hg : g.inWindow = true)
    (hoff : off.toNat = g.offset) (hf : s.fault = none) : hostWrite 4 off v s = writeReg g v s :=
  hostWrite_reg ((faulted_eq_false_iff s).2 hf) (accessReg_offset hg hoff)

/-- The word a read of a mapped register returns. -/
theorem hostReadWord_offset {g : Reg} {off : Word} (s : State) (hg : g.inWindow = true)
    (hoff : off.toNat = g.offset) : hostReadWord 4 off s = g.value s (s.drawn 32) := by
  simp [hostReadWord, accessReg_offset hg hoff]

/-- What a read of a mapped register does. -/
theorem hostRead_offset {g : Reg} {off : Word} (s : State) (hg : g.inWindow = true)
    (hoff : off.toNat = g.offset) :
    hostRead 4 off s = if g.hasUnset s then s.afterDraw else s := by
  simp [hostRead, accessReg_offset hg hoff]

/-! ## A write of `CTRL` (10_state R33) -/

theorem writeCtrl_idle {s : State} (v : Word) (h : s.busy = false) :
    writeCtrl v s = (s.setCtrlEn (v.getLsbD 0)).onBus (·.setPE (v.getLsbD 0)) := by
  simp [writeCtrl, h]

theorem writeCtrl_busy {s : State} (v : Word) (h : s.busy = true) :
    writeCtrl v s = raiseFault .busy 0x01 s := by
  simp [writeCtrl, h]

/-- The flags of the engine at rest read 0 (R42, R43). -/
theorem reset_flags_zero : Periph.reset.sr1.word = 0 ∧ Periph.reset.sr2.word = 0 := by decide

/-- Settles O41. -/
theorem ctrlWriteEnablesOrResets : Obligations.CtrlWriteEnablesOrResets := by
  unfold Obligations.CtrlWriteEnablesOrResets
  have hwrite : ∀ {s : State} (v : Word), s.fault = none → hostWrite 4 0x08 v s = writeCtrl v s :=
    fun v hf => hostWrite_offset (g := .ctrl) rfl rfl hf
  refine ⟨fun s v ⟨hq, hf⟩ => ?_, fun s v hb hf => (hwrite v hf).trans (writeCtrl_busy v hb)⟩
  have hidle := writeCtrl_idle v ((busy_eq_false_iff s).2 hq)
  obtain ⟨hpe, hdr, hrw, htarget⟩ := setPE_keeps s.bus (v.getLsbD 0)
  refine ⟨_, (hwrite v hf).trans hidle, rfl, ?_, hpe, hdr, hrw, htarget, fun hon hv => ?_,
    fun hcopy => ?_⟩
  · exact (hostReadWord_offset (g := .ctrl) _ rfl rfl).trans (bitAt_zero_eq_and_one v)
  · have hoff := setPE_off s.bus hon
    rw [← hv] at hoff
    rw [State.onBus, setBus_bus, setCtrlEn_bus, hoff]
    exact ⟨rfl, rfl, rfl, reset_flags_zero.1, reset_flags_zero.2, rfl⟩
  · rw [State.onBus, setBus_bus, setCtrlEn_bus, setPE_copy s.bus _ hcopy]
    exact ⟨rfl, rfl, rfl, rfl⟩

/-! ## A write of a `TXBUF` word (10_state R35) -/

/-- Reading any byte after a write of one byte of the buffers. -/
theorem memGet_memPut (m : Memory) {a : Nat} (b : Byte) (x : Nat) (ha : txBase ≤ a ∧ a < bufEnd) :
    memGet (memPut m a b) x = if x = a then some b else memGet m x := by
  split
  · rename_i hx; rw [hx, memGet_put_same m b ha]
  · rename_i hx; exact memGet_put_other m b hx

/-- Every byte of the buffers after a write of `TXBUF` word `w`. -/
theorem memGet_writeTxWord {s : State} {w : Nat} (v : Word) (hidle : s.busy = false) (hw : w < 8)
    (x : Nat) :
    memGet (writeTxWord w v s).mem x =
      if txBase + 4 * w ≤ x ∧ x < txBase + 4 * w + 4 then some (wordByte v (x - (txBase + 4 * w)))
      else memGet s.mem x := by
  have hin : ∀ k, k < 4 → txBase ≤ txBase + (4 * w + k) ∧ txBase + (4 * w + k) < bufEnd := by
    simp only [txBase, bufEnd]; omega
  have hmem : (writeTxWord w v s).mem =
      memPut (memPut (memPut (memPut s.mem (txBase + (4 * w + 0)) (wordByte v 0))
        (txBase + (4 * w + 1)) (wordByte v 1)) (txBase + (4 * w + 2)) (wordByte v 2))
        (txBase + (4 * w + 3)) (wordByte v 3) := by
    simp [writeTxWord, hidle, State.putTx]
  rw [hmem, memGet_memPut _ _ _ (hin 3 (by omega)), memGet_memPut _ _ _ (hin 2 (by omega)),
    memGet_memPut _ _ _ (hin 1 (by omega)), memGet_memPut _ _ _ (hin 0 (by omega))]
  by_cases hx : txBase + 4 * w ≤ x ∧ x < txBase + 4 * w + 4
  · obtain ⟨k, hk, rfl⟩ : ∃ k, k < 4 ∧ x = txBase + (4 * w + k) :=
      ⟨x - (txBase + 4 * w), by omega, by omega⟩
    interval_cases k <;> simp [← Nat.add_assoc]
  · rw [if_neg hx]
    have hne : ∀ k, k < 4 → x ≠ txBase + (4 * w + k) := by omega
    simp only [hne 0, hne 1, hne 2, hne 3, Nat.reduceLT, if_false]

theorem writeTxWord_rest (s : State) (w : Nat) (v : Word) (hidle : s.busy = false) :
    writeTxWord w v s = s.setMem (writeTxWord w v s).mem := by
  simp [writeTxWord, hidle, State.putTx, State.setMem]

/-- Settles O47. -/
theorem txWordWrite : Obligations.TxWordWrite := by
  unfold Obligations.TxWordWrite
  intro s w v ⟨hq, hf⟩ hw
  have hidle := (busy_eq_false_iff s).2 hq
  have hin : (Reg.tx w).inWindow = true := decide_eq_true hw
  have hoff : (BitVec.ofNat 32 (0x80 + 4 * w)).toNat = (Reg.tx w).offset := by
    simp only [Reg.offset, txBase, BitVec.toNat_ofNat]; omega
  have hmem := memGet_writeTxWord v hidle hw
  have hbyte : ∀ k, k < 4 → memGet (writeTxWord w v s).mem (txBase + (4 * w + k)) =
      some (wordByte v k) := by
    intro k hk
    rw [hmem, if_pos (by omega)]
    congr 2
    omega
  refine ⟨_, hostWrite_offset hin hoff hf, writeTxWord_rest s w v hidle, hbyte, fun x hx => ?_, ?_⟩
  · exact (hmem x).trans (if_neg hx)
  · have hread := hostReadWord_offset (writeTxWord w v s) hin hoff
    have h0 := hbyte 0 (by omega)
    have h1 := hbyte 1 (by omega)
    have h2 := hbyte 2 (by omega)
    have h3 := hbyte 3 (by omega)
    simp only [← Nat.add_assoc, Nat.add_zero] at h0 h1 h2 h3
    simp only [writeReg, hread, Reg.value, bufferWord, h0, h1, h2, h3, Option.getD_some,
      bytesWord_wordByte]

/-! ## Unset bits (10_state R54) -/

/-- What the window shows of a buffer word (R35). -/
theorem windowWord_buffer (s : State) {base w : Nat} (d : Word) (h : 0x80 ≤ base + 4 * w) :
    Sys2Proof.Claims.windowWord s (base + 4 * w) =
      if bufferUnset s.mem base w then none else some (bufferWord s.mem base w d) := by
  have hlow : ∀ k, k < 0x80 → base + 4 * w ≠ k := by omega
  have hcal : ¬(0x40 ≤ base + 4 * w ∧ base + 4 * w < 0x70) := by omega
  simp only [Sys2Proof.Claims.windowWord, hlow, hcal, Nat.reduceLT, if_false]
  unfold bufferUnset bufferWord
  generalize memGet s.mem (base + 4 * w) = b0, memGet s.mem (base + 4 * w + 1) = b1,
    memGet s.mem (base + 4 * w + 2) = b2, memGet s.mem (base + 4 * w + 3) = b3
  cases b0 with
  | none => rfl
  | some => cases b1 with
    | none => rfl
    | some => cases b2 with
      | none => rfl
      | some => cases b3 with
        | none => rfl
        | some => rfl

/-- What the window map shows of a register: its value, unless it holds unset bits. -/
theorem windowWord_offset (s : State) {g : Reg} (d : Word) (hg : g.inWindow = true) :
    Sys2Proof.Claims.windowWord s g.offset =
      if g.hasUnset s then none else some (g.value s d) := by
  cases g
  case tx w => exact windowWord_buffer s d (by simp only [txBase]; omega)
  case rx w => exact windowWord_buffer s d (by simp only [rxBase]; omega)
  case cmd | status | ctrl | fault => rfl
  case temp =>
    cases h : s.data.temp <;>
      simp [Sys2Proof.Claims.windowWord, Reg.offset, Reg.hasUnset, Reg.value, h]
  case pres =>
    cases h : s.data.pres <;>
      simp [Sys2Proof.Claims.windowWord, Reg.offset, Reg.hasUnset, Reg.value, h]
  case tfine =>
    cases h : s.data.tfine <;>
      simp [Sys2Proof.Claims.windowWord, Reg.offset, Reg.hasUnset, Reg.value, h]
  case rawT | rawP =>
    cases h : s.data.raw <;>
      simp [Sys2Proof.Claims.windowWord, Reg.offset, Reg.hasUnset, Reg.value, h]
  case lastId =>
    cases h : s.data.lastId <;>
      simp [Sys2Proof.Claims.windowWord, Reg.offset, Reg.hasUnset, Reg.value, h]
  case cal k =>
    have hk : k < 12 := by simpa [Reg.inWindow] using hg
    cases h : s.data.cal with
    | none => interval_cases k <;>
        simp [Sys2Proof.Claims.windowWord, Reg.offset, Reg.hasUnset, h]
    | some c => interval_cases k <;>
        simp [Sys2Proof.Claims.windowWord, Reg.offset, Reg.hasUnset, Reg.value, h, CalSet.field]

section
variable {g : Reg} {s : State} (d : Word) (hu : g.hasUnset s = true)
include hu

/-- The registers below the raw sample that can be unset have 32 bits: the read returns the draw. -/
theorem value_unset_word (ho : g.offset < 0x1C) : g.value s d = d := by
  cases g
  case temp | pres | tfine => rw [Reg.value, Option.isNone_iff_eq_none.1 hu]; rfl
  case cmd | status | ctrl | fault => exact absurd hu Bool.false_ne_true
  all_goals (simp only [Reg.offset, txBase, rxBase] at ho; omega)

/-- An unset raw sample reads as 20 drawn bits. -/
theorem value_unset_raw (hlo : 0x1C ≤ g.offset) (hhi : g.offset < 0x24) :
    g.value s d = (d.extractLsb' 0 20).setWidth 32 := by
  cases g
  case rawT | rawP =>
    rw [Reg.value, Option.isNone_iff_eq_none.1 hu, ← BitVec.setWidth_eq_extractLsb' (by omega)]; rfl
  all_goals (simp only [Reg.offset, txBase, rxBase] at hlo hhi; omega)

/-- An unset identity byte reads as 8 drawn bits. -/
theorem value_unset_lastId (ho : g.offset = 0x24) :
    g.value s d = (d.extractLsb' 0 8).setWidth 32 := by
  cases g
  case lastId =>
    rw [Reg.value, Option.isNone_iff_eq_none.1 hu, ← BitVec.setWidth_eq_extractLsb' (by omega)]; rfl
  all_goals (simp only [Reg.offset, txBase, rxBase] at ho; omega)

/-- An unset calibration register reads as 16 drawn bits. -/
theorem value_unset_cal (hg : g.inWindow = true) (hlo : 0x40 ≤ g.offset) (hhi : g.offset < 0x70) :
    g.value s d = (d.extractLsb' 0 16).setWidth 32 := by
  cases g
  case cal =>
    rw [Reg.value, Option.isNone_iff_eq_none.1 hu, ← BitVec.setWidth_eq_extractLsb' (by omega)]; rfl
  all_goals (simp only [Reg.offset, txBase, rxBase] at hlo hhi; omega)

end

/-- Byte `k` of a buffer word: the byte stored, or the draw's (R35). -/
theorem wordByte_bufferWord (m : Memory) (base w : Nat) (d : Word) {k : Nat} (hk : k < 4) :
    wordByte (bufferWord m base w d) k = (memGet m (base + 4 * w + k)).getD (wordByte d k) :=
  wordByte_bytesWord (fun j => (memGet m (base + 4 * w + j)).getD (wordByte d j)) hk

/-- Byte `k` of what a buffer register reads as. -/
theorem value_buffer_byte {g : Reg} (s : State) (d : Word) (hg : g.inWindow = true)
    (ho : 0x80 ≤ g.offset) {k : Nat} (hk : k < 4) :
    wordByte (g.value s d) k = (memGet s.mem (g.offset + k)).getD (wordByte d k) := by
  cases g
  case tx w => exact wordByte_bufferWord s.mem txBase w d hk
  case rx w => exact wordByte_bufferWord s.mem rxBase w d hk
  case cal j =>
    have hj : j < 12 := by simpa [Reg.inWindow] using hg
    simp only [Reg.offset] at ho
    omega
  all_goals (simp only [Reg.offset] at ho; omega)

/-- Settles O49. -/
theorem unsetBitsReadAsDraws : Obligations.UnsetBitsReadAsDraws := by
  unfold Obligations.UnsetBitsReadAsDraws
  intro s off hmapped hnone
  obtain ⟨g, hg, hoff⟩ := exists_offset hmapped
  have hu : g.hasUnset s = true := by
    rw [hoff, windowWord_offset s 0 hg] at hnone
    by_contra hset
    simp [hset] at hnone
  have hread : hostRead 4 off s = s.afterDraw := by rw [hostRead_offset s hg hoff, if_pos hu]
  rw [hread, hostReadWord_offset s hg hoff, hoff]
  exact ⟨rfl, rfl, value_unset_word _ hu, value_unset_raw _ hu, value_unset_lastId _ hu,
    value_unset_cal _ hu hg, fun ho _ hk => value_buffer_byte s _ hg ho hk⟩

/-! ## Reset (10_state R63) -/

/-- Settles O51. -/
theorem resetValues : Obligations.ResetValues := by
  unfold Obligations.ResetValues
  exact ⟨rfl, rfl, rfl, rfl, rfl, rfl, fun _ => ⟨rfl, rfl⟩, rfl, rfl, rfl, rfl, rfl, rfl, rfl, rfl,
    rfl, rfl, rfl, rfl, rfl⟩

end Sys2Proof.Machine
end

section
/-! SUPPORT. The memory family: the host window's accesses (20_memory R81–R84; 60_exceptions R268; O44,
O45, O48). -/

namespace Sys2Proof.Machine

/-! ## A bad access (R82, R268) -/

/-- Nothing is mapped outside the map (R81). -/
theorem regAt_unmapped {off : Nat} (h : ¬MappedOffset off) : regAt off = none := by
  unfold regAt
  by_cases halign : off % 4 = 0
  · have hlow : ∀ k, k < 0x28 → off ≠ k := by omega
    have hcal : ¬(0x40 ≤ off ∧ off < 0x70) := by omega
    have htx : ¬(0x80 ≤ off ∧ off < 0xA0) := by omega
    have hrx : ¬(0xA0 ≤ off ∧ off < 0xC0) := by omega
    simp only [halign, hlow, hcal, htx, hrx, Nat.reduceLT, ne_eq, not_true_eq_false, if_false]
  · rw [if_pos halign]

theorem accessReg_bad {width : Nat} {off : Word} (h : width ≠ 4 ∨ ¬MappedOffset off.toNat) :
    accessReg width off = none := by
  unfold accessReg
  split
  · exact regAt_unmapped (h.resolve_left (not_not_intro ‹_›))
  · rfl

/-- Settles O44: such an access reaches no register. -/
theorem badAccessFaults : Obligations.BadAccessFaults := by
  unfold Obligations.BadAccessFaults
  intro s width off v hf hbad
  have hno := accessReg_bad hbad
  have hsafe := (faulted_eq_false_iff s).2 hf
  have hinfo : off.setWidth 8 = BitVec.ofNat 8 off.toNat := BitVec.eq_of_toNat_eq (by simp)
  rw [hostWrite, hostRead, hostReadWord, hno, hsafe, ← hinfo]
  exact ⟨rfl, rfl, rfl⟩

/-! ## Read-only registers and reserved bits (R83) -/

/-- A register the host can write. -/
def Reg.writable : Reg → Bool
  | .cmd => true
  | .ctrl => true
  | .tx _ => true
  | _ => false

theorem writeReg_readOnly {g : Reg} (hg : g.writable = false) (v : Word) (s : State) :
    writeReg g v s = s := by
  cases g
  case cmd | ctrl | tx => exact absurd hg (by simp [Reg.writable])
  all_goals rfl

theorem hostWrite_readOnly {g : Reg} {off : Word} (v : Word) (s : State) (hg : g.inWindow = true)
    (hoff : off.toNat = g.offset) (hr : g.writable = false) : hostWrite 4 off v s = s := by
  unfold hostWrite
  rw [accessReg_offset hg hoff]
  split
  · rfl
  · exact writeReg_readOnly hr v s

/-- The writable registers are `CMD`, `CTRL` and `TXBUF` (R81). -/
theorem writable_offset {g : Reg} (hg : g.inWindow = true) (hw : g.writable = true) :
    g.offset = 0x00 ∨ g.offset = 0x08 ∨ (0x80 ≤ g.offset ∧ g.offset < 0xA0) := by
  cases g
  case cmd => exact .inl rfl
  case ctrl => exact .inr (.inl rfl)
  case tx w =>
    have hw8 : w < 8 := by simpa [Reg.inWindow] using hg
    simp only [Reg.offset, txBase]
    omega
  all_goals exact absurd hw Bool.false_ne_true

/-- A write of `CTRL` takes bit 0 alone (R33). -/
theorem writeCtrl_congr {v w : Word} (h : v.getLsbD 0 = w.getLsbD 0) (s : State) :
    writeCtrl v s = writeCtrl w s := by
  rw [writeCtrl, writeCtrl, h]

theorem hostWrite_ctrl (v : Word) (s : State) :
    hostWrite 4 0x08 v s = if s.faulted then s else writeCtrl v s := rfl

theorem toNat_setWidth_lt {w : Nat} (x : BitVec w) (n : Nat) : (x.setWidth n).toNat < 2 ^ w := by
  rw [BitVec.toNat_setWidth]
  exact (Nat.mod_le _ _).trans_lt x.isLt

/-- The reserved bits of `STATUS`, as a bound (R32). -/
theorem statusWord_lt (s : State) : s.statusWord.toNat < 2 ^ 8 := by
  have h := congrArg BitVec.toNat (statusWord_reserved s)
  have hlt := s.statusWord.isLt
  simp only [BitVec.extractLsb'_toNat, Nat.shiftRight_eq_div_pow] at h
  change _ = 0 at h
  omega

theorem ctrlWord_lt (s : State) : s.ctrlWord.toNat < 2 := by
  rw [State.ctrlWord]
  cases s.ctrlEn <;> decide

theorem faultWord_lt (s : State) : s.faultWord.toNat < 2 ^ 16 := by
  unfold State.faultWord
  split
  · decide
  · exact toNat_setWidth_lt _ 32

/-- Settles O45. -/
theorem readOnlyWritesIgnored : Obligations.ReadOnlyWritesIgnored := by
  unfold Obligations.ReadOnlyWritesIgnored
  intro s v
  refine ⟨fun off hmapped hcmd hctrl htx => ?_, ?_, statusWord_lt s, ctrlWord_lt s, faultWord_lt s,
    toNat_setWidth_lt _ 32, toNat_setWidth_lt _ 32, toNat_setWidth_lt _ 32, fun k hk => ?_⟩
  · obtain ⟨g, hg, hoff⟩ := exists_offset hmapped
    refine hostWrite_readOnly v s hg hoff (Bool.eq_false_iff.2 fun hw => ?_)
    have := writable_offset hg hw
    omega
  · rw [hostWrite_ctrl, hostWrite_ctrl, writeCtrl_congr (v := v &&& 1) (w := v) (by simp)]
  · have hin : (Reg.cal k).inWindow = true := decide_eq_true hk
    rw [hostReadWord_offset s hin (by simp only [Reg.offset, BitVec.toNat_ofNat]; omega)]
    exact toNat_setWidth_lt _ 32

/-! ## Reads (R84, R54) -/

theorem sameCore_refl (s : State) : Sys2Proof.Claims.SameCore s s :=
  ⟨rfl, rfl, rfl, rfl, rfl, rfl, rfl, rfl, rfl, rfl⟩

theorem sameCore_afterDraw (s : State) : Sys2Proof.Claims.SameCore s s.afterDraw :=
  ⟨rfl, rfl, rfl, rfl, rfl, rfl, rfl, rfl, rfl, rfl⟩

/-- Settles O48: a read draws for unset bits, and does nothing else. -/
theorem hostReadsHaveNoEffect : Obligations.HostReadsHaveNoEffect := by
  unfold Obligations.HostReadsHaveNoEffect
  intro s off hmapped
  obtain ⟨g, hg, hoff⟩ := exists_offset hmapped
  rw [hostRead_offset s hg hoff, hostReadWord_offset s hg hoff, hoff,
    windowWord_offset s (s.drawn 32) hg]
  cases hu : g.hasUnset s
  · exact ⟨sameCore_refl s, fun v hv => ⟨rfl, Option.some.inj hv⟩⟩
  · exact ⟨sameCore_afterDraw s, fun v hv => by cases hv⟩

end Sys2Proof.Machine
end

section
/-! SUPPORT. The memory family: transfers with the reference device under the eager schedule (40_bus
R148), where every poll succeeds at its first observation. A transfer is followed from one poll to the
next: what the device has done stands in the peripheral's flags when the sequencer observes them. -/

namespace Sys2Proof.Machine

/-! ## Where a running command comes to -/

theorem runTurns_add (j k : Nat) (s : State) : runTurns (j + k) s = runTurns k (runTurns j s) := by
  induction j generalizing s with
  | zero => simp [runTurns]
  | succ j ih =>
    cases hb : s.busy && !s.faulted with
    | false => simp only [runTurns_of_stopped _ hb]
    | true => rw [Nat.succ_add_eq_add_succ, Nat.add_succ]; simp only [runTurns, hb, if_true, ih]

/-- The command running in `s` comes to `t`, `n` observations later. -/
def LeadsTo (n : Nat) (s t : State) : Prop :=
  (∃ k, runTurns k s = t) ∧ t.tally.observations = s.tally.observations + n

theorem LeadsTo.trans {m n : Nat} {s t u : State} (h : LeadsTo m s t) (k : LeadsTo n t u) :
    LeadsTo (m + n) s u := by
  obtain ⟨⟨i, rfl⟩, hm⟩ := h
  obtain ⟨⟨j, rfl⟩, hn⟩ := k
  exact ⟨⟨i + j, runTurns_add i j s⟩, by omega⟩

/-- The state a command stops in is the state it ends in. -/
theorem LeadsTo.runCommand_eq {n : Nat} {s t : State} (h : LeadsTo n s t)
    (ht : (t.busy && !t.faulted) = false) : runCommand s = t := by
  obtain ⟨⟨k, hk⟩, -⟩ := h
  have hend : ((runCommand s).busy && !(runCommand s).faulted) = false := by
    rcases runCommand_ends s with h | h <;> simp [h]
  rw [runCommand] at hend ⊢
  rw [← runTurns_of_stopped k hend, ← runTurns_add, Nat.add_comm, runTurns_add, hk,
    runTurns_of_stopped _ ht]

/-- The state a sequencer's turn leaves: the bus agent has had its part, unless the step faulted. -/
abbrev answered (s : State) : State := unlessFaulted busWindow s

theorem unlessFaulted_of_safe {f : State → State} {s : State} (h : s.fault = none) :
    unlessFaulted f s = f s := by
  simp [unlessFaulted, (faulted_eq_false_iff s).2 h]

/-- What a transfer may change: `SEQ`, the buffers, the bus with its agent and record, the counts. -/
def TransferOnly (s t : State) : Prop :=
  t = { s with seq := t.seq, mem := t.mem, bus := t.bus, tally := t.tally, wire := t.wire,
               busAgent := t.busAgent }

theorem TransferOnly.trans {s t u : State} (h : TransferOnly s t) (k : TransferOnly t u) :
    TransferOnly s u := by
  unfold TransferOnly at *
  rw [k, h]

theorem TransferOnly.of_busOnly {s t : State} (h : BusOnly s t) : TransferOnly s t := by
  unfold TransferOnly
  rw [h.rest]; rfl

section
variable {s t : State} (h : TransferOnly s t)
include h
theorem TransferOnly.data : t.data = s.data := by rw [h]
theorem TransferOnly.params : t.params = s.params := by rw [h]
end

/-! ## The device's turn (R148) -/

theorem RefDevice.enabled_of_next {d : RefDevice} {p : Periph} {e : BusEvent} (h : d.next p = some e) :
    e.enabled p = true := by
  unfold RefDevice.next at h
  split_ifs at h with h1 h2 h3 h4 h5 h6 <;> cases h <;> assumption

/-- An event the device takes, with what it does to the device. -/
def RefDevice.take (d : RefDevice) (e : BusEvent) (s : State) : State :=
  (takeEvent e s).setBusAgent (.reference (d.after s.params s.bus.dr e))

theorem RefDevice.take_bus {d : RefDevice} {s : State} {e : BusEvent} (h : d.next s.bus = some e) :
    (d.take e s).bus = e.effect s.bus := by
  simp [RefDevice.take, takeEvent, enabled_of_next h]

theorem eager_event {d : RefDevice} {s : State} {e : BusEvent} (h : d.next s.bus = some e) (k : Nat) :
    eager (k + 1) d s = eager k (d.after s.params s.bus.dr e) (d.take e s) := by
  simp only [eager, h]; rfl

theorem eager_settled {d : RefDevice} {s : State} (h : d.next s.bus = none) (k : Nat) :
    eager k d s = s := by
  cases k <;> simp [eager, h]

section
variable (d : RefDevice) {p : Periph} (hpe : p.cr.pe = true)
include hpe

theorem RefDevice.next_stop (hstop : p.cr.stop = true) (hp : p.phase.takesStop = true) :
    d.next p = some .stop := by
  simp [RefDevice.next, BusEvent.enabled, hpe, hstop, hp]

theorem RefDevice.next_start (hstart : p.cr.start = true) (hstop : p.cr.stop = false)
    (hp : p.phase.takesStart = true) : d.next p = some .start := by
  simp [RefDevice.next, BusEvent.enabled, hpe, hstart, hstop, hp]

theorem RefDevice.next_addrAck (hp : p.phase = .addrSent) (ht : p.engTarget = Config.devAddr) :
    d.next p = some .addrAck := by
  simp [RefDevice.next, BusEvent.enabled, Phase.takesStop, Phase.takesStart, hpe, hp, ht]

theorem RefDevice.next_txAck (hp : p.phase = .txByte) : d.next p = some .txAck := by
  simp [RefDevice.next, BusEvent.enabled, Phase.takesStop, Phase.takesStart, hpe, hp]

theorem RefDevice.next_rx (hp : p.phase = .rxActive) (hr : p.sr1.rxne = false) :
    d.next p = some (.rx (d.reg d.ptr)) := by
  simp [RefDevice.next, BusEvent.enabled, Phase.takesStop, Phase.takesStart, hpe, hp, hr]

end

/-! ## Where the peripheral stands when the device has had its turn -/

/-- The peripheral is enabled, with no condition requested and no NACK, in this phase and with these
flags of `SR1`. -/
structure Periph.Stands (ph : Phase) (sb addr rxne : Bool) (p : Periph) : Prop where
  pe : p.cr.pe = true
  start : p.cr.start = false
  stop : p.cr.stop = false
  af : p.sr1.af = false
  phase : p.phase = ph
  sb : p.sr1.sb = sb
  addr : p.sr1.addr = addr
  rxne : p.sr1.rxne = rxne

/-- With no condition requested the device has nothing to answer in this phase. -/
def Phase.quiet (ph : Phase) (rxne : Bool) : Bool :=
  ph != .addrSent && ph != .txByte && (ph != .rxActive || rxne)

theorem Periph.Stands.next_none {ph : Phase} {sb addr rxne : Bool} {p : Periph}
    (h : p.Stands ph sb addr rxne) (hq : ph.quiet rxne = true) (d : RefDevice) : d.next p = none := by
  obtain ⟨-, hstart, hstop, -, rfl, -, -, rfl⟩ := h
  simp only [Phase.quiet, Bool.and_eq_true, bne_iff_ne, Bool.or_eq_true] at hq
  obtain ⟨⟨haddr, htx⟩, hrx⟩ := hq
  have hrx : ¬(p.phase = .rxActive ∧ p.sr1.rxne = false) := by
    rintro ⟨h1, h2⟩; simp [h1, h2] at hrx
  simp [RefDevice.next, BusEvent.enabled, hstart, hstop, haddr, htx, hrx]

/-- A core without a fault, with no turn scheduled, under the reference device `d`. -/
structure Serving (d : RefDevice) (s : State) : Prop where
  fault : s.fault = none
  agenda : s.agenda = []
  agent : s.busAgent = .reference d

/-- Under the reference device `d`, and nothing left for it to do. -/
structure Served (d : RefDevice) (ph : Phase) (sb addr rxne : Bool) (s : State) : Prop
    extends Serving d s where
  bus : s.bus.Stands ph sb addr rxne
  quiet : ph.quiet rxne = true

theorem UnderReference.served {d : RefDevice} {s : State} (h : UnderReference d s) :
    Served d .idle false false false s where
  fault := h.accepts.2
  agenda := h.agenda
  agent := h.agent
  bus := ⟨h.pe, h.start, h.stop, h.af, h.phase, h.sb, h.addr, h.rxne⟩
  quiet := rfl

section
variable {d : RefDevice} {s : State} {ph : Phase} {sb addr rxne : Bool}

theorem Serving.answered_eq (h : Serving d s) : answered s = eager eagerFuel d s := by
  simp [unlessFaulted_of_safe h.fault, busWindow, h.agent]

theorem Served.answered_eq (h : Served d ph sb addr rxne s) : answered s = s := by
  rw [h.toServing.answered_eq, eager_settled (h.bus.next_none h.quiet d)]

theorem Serving.take (h : Serving d s) (e : BusEvent) :
    Serving (d.after s.params s.bus.dr e) (d.take e s) where
  fault := (takeEvent_busOnly e s).fault.trans h.fault
  agenda := (takeEvent_busOnly e s).agenda.trans h.agenda
  agent := rfl

theorem Serving.served_take {e : BusEvent} (h : Serving d s) (he : d.next s.bus = some e)
    (hb : (e.effect s.bus).Stands ph sb addr rxne) (hq : ph.quiet rxne = true) :
    Served (d.after s.params s.bus.dr e) ph sb addr rxne (d.take e s) :=
  { h.take e with bus := RefDevice.take_bus he ▸ hb, quiet := hq }

/-- One event answers what the sequencer has done. -/
theorem Serving.answered_one {e : BusEvent} (h : Serving d s) (he : d.next s.bus = some e)
    (hb : (e.effect s.bus).Stands ph sb addr rxne) (hq : ph.quiet rxne = true) :
    (answered s).bus = e.effect s.bus ∧
      Served (d.after s.params s.bus.dr e) ph sb addr rxne (answered s) := by
  have ht := h.served_take he hb hq
  have heq : answered s = d.take e s := by
    rw [h.answered_eq, eagerFuel, eager_event he, eager_settled (ht.bus.next_none hq _)]
  exact heq ▸ ⟨RefDevice.take_bus he, ht⟩

/-- Two events answer it. -/
theorem Serving.answered_two {d' : RefDevice} {e f : BusEvent} (h : Serving d s)
    (he : d.next s.bus = some e) (hd : d.after s.params s.bus.dr e = d')
    (hf : d'.next (e.effect s.bus) = some f)
    (hb : (f.effect (e.effect s.bus)).Stands ph sb addr rxne) (hq : ph.quiet rxne = true) :
    (answered s).bus = f.effect (e.effect s.bus) ∧
      Served (d'.after s.params (e.effect s.bus).dr f) ph sb addr rxne (answered s) := by
  have hu := h.take e
  have hbus := RefDevice.take_bus he
  have hparams : (d.take e s).params = s.params := (takeEvent_busOnly e s).params
  rw [hd] at hu
  rw [← hbus] at hf hb ⊢
  rw [← hparams]
  have ht := hu.served_take hf hb hq
  have heq : answered s = d'.take f (d.take e s) := by
    rw [h.answered_eq, eagerFuel, eager_event he, hd, eager_event hf,
      eager_settled (ht.bus.next_none hq _)]
  exact heq ▸ ⟨RefDevice.take_bus hf, ht⟩

end

/-! ## From poll to poll -/

/-- `t` is at the first observation of the poll `pt`, and only a transfer's turn away from `s`. -/
structure Awaits (c : Instr) (r : Ret) (pt : Point) (s t : State) : Prop where
  seq : t.seq = .poll c r pt 0
  mem : t.mem = s.mem
  core : TransferOnly s t

theorem Awaits.of_core {c : Instr} {r : Ret} {pt : Point} {s u t : State} (h : Awaits c r pt u t)
    (hc : TransferOnly s u) (hm : u.mem = s.mem) : Awaits c r pt s t :=
  ⟨h.seq, h.mem.trans hm, hc.trans h.core⟩

theorem awaits_answered (c : Instr) (r : Ret) (pt : Point) (s : State) :
    Awaits c r pt s (answered (beginPoll c r pt s)) := by
  have ho := unlessFaulted_busWindow_busOnly (beginPoll c r pt s)
  have hc : TransferOnly s (beginPoll c r pt s) := rfl
  exact ⟨ho.seq, ho.mem, hc.trans (.of_busOnly ho)⟩

section
variable {d d' : RefDevice} {s : State} {ph : Phase} {sb addr rxne : Bool}

theorem Serving.onBus (h : Serving d s) (f : Periph → Periph) : Serving d (s.onBus f) :=
  ⟨h.fault, h.agenda, h.agent⟩

/-- The sequencer leaves the peripheral as `p` and begins a poll; the device answers with one event. -/
theorem Serving.answers_one {p : Periph} {e : BusEvent} (h : Serving d s) (c : Instr) (r : Ret)
    (pt : Point) (hp : s.bus = p) (he : d.next p = some e) (hd : d.after s.params p.dr e = d')
    (hb : (e.effect p).Stands ph sb addr rxne) (hq : ph.quiet rxne = true) :
    ∃ t, answered (beginPoll c r pt s) = t ∧ t.bus = e.effect p ∧ Served d' ph sb addr rxne t ∧
      Awaits c r pt s t := by
  subst hp hd
  have hs : Serving d (beginPoll c r pt s) := ⟨h.fault, h.agenda, h.agent⟩
  obtain ⟨hbus, hserved⟩ := hs.answered_one he hb hq
  exact ⟨_, rfl, hbus, hserved, awaits_answered c r pt s⟩

/-- The same where the device answers with two events. -/
theorem Serving.answers_two {d₁ : RefDevice} {p : Periph} {e e' : BusEvent} (h : Serving d s)
    (c : Instr) (r : Ret) (pt : Point) (hp : s.bus = p) (he : d.next p = some e)
    (hd : d.after s.params p.dr e = d₁) (he' : d₁.next (e.effect p) = some e')
    (hd' : d₁.after s.params (e.effect p).dr e' = d')
    (hb : (e'.effect (e.effect p)).Stands ph sb addr rxne) (hq : ph.quiet rxne = true) :
    ∃ t, answered (beginPoll c r pt s) = t ∧ t.bus = e'.effect (e.effect p) ∧
      Served d' ph sb addr rxne t ∧ Awaits c r pt s t := by
  subst hp hd'
  have hs : Serving d (beginPoll c r pt s) := ⟨h.fault, h.agenda, h.agent⟩
  obtain ⟨hbus, hserved⟩ := hs.answered_two he hd he' hb hq
  exact ⟨_, rfl, hbus, hserved, awaits_answered c r pt s⟩

theorem Serving.runTurns_succ (h : Serving d s) (hb : s.busy = true) (k : Nat) :
    runTurns (k + 1) s = runTurns k (answered (seqStep s)) := by
  have hf := (faulted_eq_false_iff s).2 h.fault
  rw [runTurns, waitTurn, h.agenda, sequencerTurn_of_running hb hf]
  simp [hb, hf]

theorem Served.countSeqStep (h : Served d ph sb addr rxne s) :
    Served d ph sb addr rxne s.countSeqStep :=
  ⟨⟨h.fault, h.agenda, h.agent⟩, h.bus, h.quiet⟩

/-- An observation made, and where it leaves the sequencer. -/
def State.observed (s : State) (q : Seq) : State := s.countSeqStep.countObservation.setSeq q

theorem Served.observed (h : Served d ph sb addr rxne s) (q : Seq) :
    Served d ph sb addr rxne (s.observed q) :=
  ⟨⟨h.fault, h.agenda, h.agent⟩, h.bus, h.quiet⟩

theorem transferOnly_observed (s : State) (q : Seq) : TransferOnly s (s.observed q).countSeqStep := rfl

/-- A poll whose condition holds ends at its first observation, and the step after it is next. -/
theorem Served.leadsTo_resume {c : Instr} {r : Ret} {pt : Point} {j : Nat}
    (h : Served d ph sb addr rxne s) (hq : s.seq = .poll c r pt j)
    (hc : pt.cond s.bus.observe = true) :
    ∃ u, LeadsTo 1 s (answered (resume c r pt (some s.bus.observe) u)) ∧
      Served d ph sb addr rxne u ∧ TransferOnly s u ∧ u.bus = s.bus ∧ u.mem = s.mem := by
  have hobs : observeStep c r pt j s.countSeqStep =
      s.observed (.polled c r pt (some s.bus.observe)) := if_pos hc
  have hmid := h.observed (.polled c r pt (some s.bus.observe))
  refine ⟨_, ⟨⟨2, ?_⟩, ?_⟩, hmid.countSeqStep, transferOnly_observed s _, rfl, rfl⟩
  · rw [h.runTurns_succ (by simp [State.busy, hq]), seqStep_poll hq, hobs, hmid.answered_eq,
      hmid.runTurns_succ rfl, seqStep_polled rfl]
    rfl
  · rw [(unlessFaulted_busWindow_busOnly _).tally]
    exact congrArg Prod.fst (counts_resume c r pt _ (s.observed _).countSeqStep)

/-! ## The start of a transfer (R150, R152, R153) -/

/-- A requested START is made at once. -/
theorem Served.callStart (h : Served d .idle false false false s) (c : Instr) (r : Ret) (pt : Point) :
    ∃ t, answered (callStart c r pt s) = t ∧
      Served { d with wcnt := 0 } .awaitAddr true false false t ∧ Awaits c r pt s t := by
  obtain ⟨hpe, hstart, hstop, haf, hph, hsb, haddr, hrx⟩ := h.bus
  have hs : Serving d (s.countStart.onBus (·.setStart true)) := ⟨h.fault, h.agenda, h.agent⟩
  have he : d.next (s.bus.setStart true) = some .start :=
    d.next_start hpe rfl hstop (by rw [Periph.setStart, hph]; rfl)
  obtain ⟨t, ht, -, hserved, hawaits⟩ :=
    hs.answers_one c r pt rfl he rfl ⟨hpe, rfl, hstop, haf, rfl, rfl, haddr, hrx⟩ rfl
  exact ⟨t, ht, hserved, hawaits.of_core rfl rfl⟩

/-- The device's own address is acknowledged, for either direction. -/
theorem Served.writeAddress (h : Served d .awaitAddr true false false s) (c : Instr) (r : Ret)
    (pt : Point) (rw : Bool) :
    ∃ t, answered (beginPoll c r pt (s.onBus (·.writeDR (addrByte Config.devAddr rw)))) = t ∧
      Served d (if rw then .rxHold else .txReady) false true false t ∧ Awaits c r pt s t := by
  obtain ⟨hpe, hstart, hstop, haf, hph, hsb, haddr, hrx⟩ := h.bus
  have hw := writeDR_of_address s.bus (addrByte Config.devAddr rw) hph hsb
  have hown : (addrByte Config.devAddr rw).extractLsb' 1 7 = Config.devAddr := by cases rw <;> rfl
  have he : d.next (s.bus.writeDR (addrByte Config.devAddr rw)) = some .addrAck := by
    rw [hw]; exact d.next_addrAck hpe rfl hown
  rw [hw] at he
  have hs := h.toServing.onBus (·.writeDR (addrByte Config.devAddr rw))
  cases rw
  · obtain ⟨t, ht, -, hserved, hawaits⟩ := hs.answers_one c r pt hw he rfl
      ⟨hpe, hstart, hstop, haf, rfl, rfl, rfl, hrx⟩ rfl
    exact ⟨t, ht, hserved, hawaits.of_core rfl rfl⟩
  · obtain ⟨t, ht, -, hserved, hawaits⟩ := hs.answers_one c r pt hw he rfl
      ⟨hpe, hstart, hstop, haf, rfl, rfl, rfl, hrx⟩ rfl
    exact ⟨t, ht, hserved, hawaits.of_core rfl rfl⟩

/-- A transfer to the device's own address comes to its address poll, acknowledged. -/
theorem Served.leadsTo_address (h : Served d .idle false false false s) {c : Instr} {r : Ret}
    {pt pt' : Point} {rw : Bool} (hc : ∀ obs, pt.cond obs = obs.sr1.sb)
    (hr : ∀ obs u, resume c r pt (some obs) u =
      beginPoll c r pt' (u.onBus (·.writeDR (addrByte Config.devAddr rw)))) :
    ∃ t, LeadsTo 1 (answered (Machine.callStart c r pt s)) t ∧
      Served { d with wcnt := 0 } (if rw then .rxHold else .txReady) false true false t ∧
      Awaits c r pt' s t := by
  obtain ⟨t, ht, hstart, hawaits⟩ := h.callStart c r pt
  obtain ⟨u, hl, hu, hcore, -, hmem⟩ :=
    hstart.leadsTo_resume hawaits.seq ((hc _).trans hstart.bus.sb)
  obtain ⟨v, hv, haddr, hawaits'⟩ := hu.writeAddress c r pt' rw
  rw [hr, hv] at hl
  exact ⟨v, ht ▸ hl, haddr,
    hawaits'.of_core (hawaits.core.trans hcore) (hmem.trans hawaits.mem)⟩

/-! ## Writing (R152) -/

/-- A data byte is taken and acknowledged. -/
theorem Served.writeByte (h : Served d .txReady false false false s) (c : Instr) (r : Ret) (pt : Point)
    (b : Byte) :
    ∃ t, answered (beginPoll c r pt (s.onBus (·.writeDR b))) = t ∧ t.bus.sr1.btf = true ∧
      Served (d.after s.params b .txAck) .txReady false false false t ∧ Awaits c r pt s t := by
  obtain ⟨hpe, hstart, hstop, haf, hph, hsb, haddr, hrx⟩ := h.bus
  obtain ⟨t, ht, hbus, hserved, hawaits⟩ := (h.toServing.onBus (·.writeDR b)).answers_one c r pt
    (writeDR_of_data s.bus b hph haddr) (d.next_txAck hpe rfl) rfl
    ⟨hpe, hstart, hstop, haf, rfl, hsb, haddr, hrx⟩ rfl
  exact ⟨t, ht, by rw [hbus]; rfl, hserved, hawaits.of_core rfl rfl⟩

/-- A requested STOP is made at once. -/
theorem Served.callStop (h : Served d .txReady false false false s) (c : Instr) (r : Ret) (pt : Point) :
    ∃ t, answered (callStop c r pt s) = t ∧ Served d .idle false false false t ∧
      Awaits c r pt s t := by
  obtain ⟨hpe, hstart, hstop, haf, hph, hsb, haddr, hrx⟩ := h.bus
  have he : d.next (s.bus.setStop true) = some .stop :=
    d.next_stop hpe rfl (by rw [Periph.setStop, hph]; rfl)
  obtain ⟨t, ht, -, hserved, hawaits⟩ := (h.toServing.onBus (·.setStop true)).answers_one c r pt rfl
    he rfl ⟨hpe, hstart, rfl, haf, rfl, rfl, haddr, hrx⟩ rfl
  exact ⟨t, ht, hserved, hawaits.of_core rfl rfl⟩

/-- The device after taking these bytes of a write. -/
def RefDevice.taken (q : Params) (d : RefDevice) (bs : List Byte) : RefDevice :=
  bs.foldl (fun d b => d.after q b .txAck) d

theorem sendByte_eq {c : Instr} {r : Ret} {a : Addr7} {n i : Nat} {b : Byte} (hi : i < n)
    (hb : s.txByte i = some b) :
    sendByte c r a n i s = beginPoll c r (.w10 a n i) (s.onBus (·.writeDR b)) := by
  simp [sendByte, hi, hb]

theorem txByte_of_mem {u : State} (h : u.mem = s.mem) (j : Nat) : u.txByte j = s.txByte j := by
  simp [State.txByte, h]

/-- From byte `i` on a `write` sends its bytes and returns Success, with one observation for each byte
and one for the STOP. -/
theorem Served.leadsTo_sent {c : Instr} {r : Ret} {bs : List Byte} {n i : Nat}
    (h : Served d .txReady false false false s) (hn : i + bs.length = n)
    (hbs : ∀ j (hj : j < bs.length), s.txByte (i + j) = some bs[j]) :
    ∃ u, LeadsTo (bs.length + 1) (answered (sendByte c r Config.devAddr n i s))
        (answered (returnWrite c r .success u)) ∧
      Served (d.taken s.params bs) .idle false false false u ∧ TransferOnly s u := by
  induction bs generalizing s d i with
  | nil =>
    rw [sendByte, if_neg (by simp at hn; omega)]
    obtain ⟨t, ht, hidle, hawaits⟩ := h.callStop c r (.wStop .success)
    obtain ⟨u, hl, hu, hcore, -⟩ := hidle.leadsTo_resume hawaits.seq
      (by simp [Point.cond, Periph.observe, hidle.bus.stop])
    exact ⟨u, ht ▸ hl, hu, hawaits.core.trans hcore⟩
  | cons b bs ih =>
    have hb : s.txByte i = some b := hbs 0 (by simp)
    simp only [List.length_cons] at hn hbs ⊢
    rw [sendByte_eq (by omega) hb]
    obtain ⟨t, ht, hbtf, hsent, hawaits⟩ := h.writeByte c r (.w10 Config.devAddr n i) b
    obtain ⟨v, hl, hv, hcore, -, hmem⟩ := hsent.leadsTo_resume hawaits.seq hbtf
    have hcore := hawaits.core.trans hcore
    have htx := txByte_of_mem (hmem.trans hawaits.mem)
    obtain ⟨u, hlu, hu, hcoreu⟩ := ih (i := i + 1) hv (by omega) fun j hj => by
      rw [htx, Nat.add_assoc, Nat.add_comm 1 j]; exact hbs (j + 1) (by omega)
    rw [hcore.params] at hu
    refine ⟨u, ?_, hu, hcore.trans hcoreu⟩
    rw [ht, Nat.add_right_comm, Nat.add_comm]
    exact hl.trans hlu

theorem firstUnsetTx_eq_none {n : Nat} (h : TxReady s n) : firstUnsetTx s n = none := by
  have key : ∀ k j, j + k ≤ n → firstUnsetFrom s j k = none := by
    intro k
    induction k with
    | zero => intro _ _; rfl
    | succ k ih =>
      intro j hj
      rw [firstUnsetFrom, if_neg (by simp [Option.isSome_iff_ne_none.1 (h j (by omega))])]
      exact ih _ (by omega)
  exact key n 0 (by omega)

/-- Clearing `ADDR` leaves a write ready for its first byte (R46). -/
theorem Served.clearStatus (h : Served d .txReady false true false s) :
    Served d .txReady false false false (s.onBus Periph.clearStatus) := by
  obtain ⟨hpe, hstart, hstop, haf, hph, hsb, -, hrx⟩ := h.bus
  have hphase : s.bus.clearStatus.phase = .txReady := by
    rw [clearStatus_of_ne s.bus (by rw [hph]; decide)]; exact hph
  exact ⟨h.toServing.onBus _, ⟨hpe, hstart, hstop, haf, hphase, hsb, rfl, hrx⟩, rfl⟩

/-- A `write` to the device sends its bytes and returns Success (R152, R316). -/
theorem Served.leadsTo_returnWrite (h : Served d .idle false false false s) {c : Instr} {r : Ret}
    {bs : List Byte} (hbs : ∀ j (hj : j < bs.length), s.txByte j = some bs[j]) :
    ∃ u, LeadsTo (bs.length + 3) (answered (callWrite c r Config.devAddr bs.length s))
        (answered (returnWrite c r .success u)) ∧
      Served (({ d with wcnt := 0 } : RefDevice).taken s.params bs) .idle false false false u ∧
      TransferOnly s u := by
  have hready : TxReady s bs.length := fun j hj => by rw [hbs j hj]; rfl
  rw [callWrite, firstUnsetTx_eq_none hready]
  obtain ⟨t, hlt, haddr, hawaits⟩ := h.leadsTo_address (c := c) (r := r) (rw := false)
    (pt := .w1 Config.devAddr bs.length) (pt' := .w4 Config.devAddr bs.length)
    (fun _ => rfl) (fun _ _ => rfl)
  obtain ⟨v, hlv, hv, hcore, -, hmem⟩ := haddr.leadsTo_resume hawaits.seq
    (by simp [Point.cond, Periph.observe, haddr.bus.addr])
  have hcore := hawaits.core.trans hcore
  have hafter : ∀ u, resume c r (.w4 Config.devAddr bs.length) (some t.bus.observe) u =
      sendByte c r Config.devAddr bs.length 0 (u.onBus Periph.clearStatus) := fun u => by
    simp [resume, afterW4, Periph.observe, haddr.bus.af]
  rw [hafter] at hlv
  have hclear := hv.clearStatus
  obtain ⟨u, hlu, hu, hcoreu⟩ := hclear.leadsTo_sent (c := c) (r := r) (i := 0) (Nat.zero_add _)
    fun j hj => by
      rw [Nat.zero_add]; exact (txByte_of_mem (hmem.trans hawaits.mem) j).trans (hbs j hj)
  have hparams : (v.onBus Periph.clearStatus).params = s.params := hcore.params
  rw [hparams] at hu
  have hon : TransferOnly v (v.onBus Periph.clearStatus) := rfl
  refine ⟨u, ?_, hu, hcore.trans (hon.trans hcoreu)⟩
  have := (hlt.trans hlv).trans hlu
  rwa [Nat.add_comm] at this

/-! ## Reading (R153) -/

/-- The core is ready to take a byte, and has enabled its acknowledge, or, for the last byte, requested
the STOP instead (R158). -/
structure Periph.Asks (last : Bool) (p : Periph) : Prop where
  pe : p.cr.pe = true
  start : p.cr.start = false
  stop : p.cr.stop = last
  ack : p.cr.ack = !last
  af : p.sr1.af = false
  phase : p.phase = .rxActive
  sb : p.sr1.sb = false
  addr : p.sr1.addr = false
  rxne : p.sr1.rxne = false

/-- The phase in which a byte stands in `DR`. -/
def deliveredPhase (last : Bool) : Phase := if last then .idle else .rxActive

/-- The device delivers the byte at `PTR`, and makes the STOP after the last one. -/
theorem Serving.deliver {last : Bool} (h : Serving d s) (ha : s.bus.Asks last) (c : Instr) (r : Ret)
    (pt : Point) :
    ∃ t, answered (beginPoll c r pt s) = t ∧ t.bus.dr = d.reg d.ptr ∧ t.bus.cr.ack = !last ∧
      Served { d with ptr := d.ptr + 1 } (deliveredPhase last) false false true t ∧
      Awaits c r pt s t := by
  obtain ⟨hpe, hstart, hstop, hack, haf, hph, hsb, haddr, hrx⟩ := ha
  have he := d.next_rx hpe hph hrx
  have hphase : ((BusEvent.rx (d.reg d.ptr)).effect s.bus).phase =
      if last then .rxEnded else .rxActive := by
    cases last <;> simp [BusEvent.effect, hack]
  cases last
  · obtain ⟨t, ht, hbus, hserved, hawaits⟩ := h.answers_one c r pt rfl he rfl
      ⟨hpe, hstart, hstop, haf, hphase, hsb, haddr, rfl⟩ rfl
    exact ⟨t, ht, by rw [hbus]; rfl, by rw [hbus]; exact hack, hserved, hawaits⟩
  · obtain ⟨t, ht, hbus, hserved, hawaits⟩ := h.answers_two c r pt rfl he rfl
      (RefDevice.next_stop _ hpe hstop (by rw [hphase]; rfl)) rfl
      ⟨hpe, hstart, rfl, haf, rfl, rfl, haddr, rfl⟩ rfl
    exact ⟨t, ht, by rw [hbus]; rfl, by rw [hbus]; exact hack, hserved, hawaits⟩

/-- Byte `i` of a read of `n` stands in `DR`, the bytes before it in `RXBUF`; `d` is the device as the
read found it. -/
structure Delivered (d : RefDevice) (n i : Nat) (s : State) : Prop where
  served : Served { d with ptr := d.ptr + BitVec.ofNat 8 (i + 1) } (deliveredPhase (i + 1 == n))
    false false true s
  ack : s.bus.cr.ack = !(i + 1 == n)
  dr : s.bus.dr = d.reg (d.ptr + BitVec.ofNat 8 i)
  stored : ∀ j, j < i → s.rxByte j = some (d.reg (d.ptr + BitVec.ofNat 8 j))

theorem takeByte_eq (n i : Nat) (s : State) :
    takeByte n i s = (s.putRx i s.bus.dr).onBus fun p =>
      if i + 2 = n then (p.readDR.setAck false).setStop true else p.readDR := by
  unfold takeByte; dsimp only; split <;> rfl

theorem takeByte_transferOnly (n i : Nat) (s : State) : TransferOnly s (takeByte n i s) := by
  rw [takeByte_eq]; rfl

theorem Serving.takeByte (h : Serving d s) (n i : Nat) : Serving d (takeByte n i s) := by
  rw [takeByte_eq]; exact ⟨h.fault, h.agenda, h.agent⟩

theorem rxByte_of_mem {u : State} (h : u.mem = s.mem) (j : Nat) : u.rxByte j = s.rxByte j := by
  simp [State.rxByte, h]

theorem takeByte_rxByte_other (n : Nat) {i j : Nat} (s : State) (h : j ≠ i) :
    (takeByte n i s).rxByte j = s.rxByte j := by
  rw [takeByte_eq]
  exact memGet_put_other s.mem _ (by omega)

/-- Taking the byte stores it after the ones before it. -/
theorem stored_takeByte {b : Nat → Byte} {n i : Nat} (hi : i < 32) (hdr : s.bus.dr = b i)
    (hs : ∀ j, j < i → s.rxByte j = some (b j)) {j : Nat} (hj : j < i + 1) :
    (takeByte n i s).rxByte j = some (b j) := by
  by_cases h : j = i
  · rw [h, (takeByte_reads s n hi).1, hdr]
  · rw [takeByte_rxByte_other n s h, hs j (by omega)]

/-- Taking a byte asks for the next one, and the second-to-last for the last (R158). -/
theorem takeByte_asks (n i : Nat) (h : s.bus.Stands .rxActive false false true)
    (hack : s.bus.cr.ack = true) : (takeByte n i s).bus.Asks (i + 2 == n) := by
  obtain ⟨hpe, hstart, hstop, haf, hph, hsb, haddr, -⟩ := h
  rw [takeByte_eq]
  by_cases hlast : i + 2 = n
  · simp only [hlast, if_true, beq_self_eq_true]
    exact ⟨hpe, hstart, rfl, rfl, haf, hph, hsb, haddr, rfl⟩
  · simp only [hlast, if_false, beq_eq_false_iff_ne.2 hlast]
    exact ⟨hpe, hstart, hstop, hack, haf, hph, hsb, haddr, rfl⟩

/-- Taking the last byte leaves the bus at rest. -/
theorem Served.takeByte {n i : Nat} (h : Served d .idle false false true s) (hi : i + 2 ≠ n) :
    Served d .idle false false false (takeByte n i s) := by
  obtain ⟨hpe, hstart, hstop, haf, hph, hsb, haddr, -⟩ := h.bus
  refine ⟨h.toServing.takeByte n i, ?_, rfl⟩
  rw [takeByte_eq]
  simp only [hi, if_false]
  exact ⟨hpe, hstart, hstop, haf, hph, hsb, haddr, rfl⟩

/-- The next byte of a read is delivered. -/
theorem Delivered.leadsTo_next {c : Instr} {r : Ret} {a : Addr7} {n i : Nat} (h : Delivered d n i s)
    (hi : i + 1 < n) (hn : n ≤ 32) (hq : s.seq = .poll c r (.rd11 a n i) 0) :
    ∃ t, LeadsTo 1 s t ∧ Delivered d n (i + 1) t ∧ t.seq = .poll c r (.rd11 a n (i + 1)) 0 ∧
      TransferOnly s t := by
  have hserved := h.served
  have hack := h.ack
  rw [show (i + 1 == n) = false by simp; omega] at hserved hack
  obtain ⟨u, hl, hu, hcore, hbus, hmem⟩ := hserved.leadsTo_resume hq hserved.bus.rxne
  have hnext : ∀ res, resume c r (.rd11 a n i) (some res) u =
      beginPoll c r (.rd11 a n (i + 1)) (takeByte n i u) := fun _ => if_pos hi
  rw [hnext] at hl
  have hasks := takeByte_asks n i hu.bus (hbus ▸ hack)
  obtain ⟨t, ht, hdr, hack', hserved', hawaits⟩ :=
    (hu.toServing.takeByte n i).deliver hasks c r (.rd11 a n (i + 1))
  refine ⟨t, ht ▸ hl, ⟨?_, hack', hdr, fun j hj => ?_⟩, hawaits.seq,
    (hcore.trans (takeByte_transferOnly n i u)).trans hawaits.core⟩
  · rw [BitVec.ofNat_add (i + 1) 1, ← BitVec.add_assoc]; exact hserved'
  · rw [rxByte_of_mem hawaits.mem]
    exact stored_takeByte (b := fun j => d.reg (d.ptr + BitVec.ofNat 8 j)) (by omega)
      (hbus ▸ h.dr) (fun k hk => (rxByte_of_mem hmem k).trans (h.stored k hk)) hj

/-- The last byte of a read is stored, and the read returns Success. -/
theorem Delivered.leadsTo_return {c : Instr} {r : Ret} {a : Addr7} {n i : Nat} (h : Delivered d n i s)
    (hi : i + 1 = n) (hn : n ≤ 32) (hq : s.seq = .poll c r (.rd11 a n i) 0) :
    ∃ u, LeadsTo 1 s (answered (returnRead c r .success u)) ∧
      Served { d with ptr := d.ptr + BitVec.ofNat 8 n } .idle false false false u ∧
      TransferOnly s u ∧ ∀ j, j < n → u.rxByte j = some (d.reg (d.ptr + BitVec.ofNat 8 j)) := by
  have hserved := h.served
  rw [hi, beq_self_eq_true] at hserved
  obtain ⟨u, hl, hu, hcore, hbus, hmem⟩ := hserved.leadsTo_resume hq hserved.bus.rxne
  have hlast : ∀ res, resume c r (.rd11 a n i) (some res) u =
      returnRead c r .success (Machine.takeByte n i u) := fun _ => if_neg (by omega)
  rw [hlast] at hl
  refine ⟨_, hl, hu.takeByte (by omega), hcore.trans (takeByte_transferOnly n i u), fun j hj => ?_⟩
  exact stored_takeByte (b := fun j => d.reg (d.ptr + BitVec.ofNat 8 j)) (by omega)
    (hbus ▸ h.dr) (fun k hk => (rxByte_of_mem hmem k).trans (h.stored k hk)) (hi ▸ hj)

/-- From byte `i` on a read stores its bytes and returns Success, with one observation each. -/
theorem Delivered.leadsTo_returnRead {c : Instr} {r : Ret} {a : Addr7} {n i k : Nat}
    (h : Delivered d n i s) (hk : i + (k + 1) = n) (hn : n ≤ 32)
    (hq : s.seq = .poll c r (.rd11 a n i) 0) :
    ∃ u, LeadsTo (k + 1) s (answered (returnRead c r .success u)) ∧
      Served { d with ptr := d.ptr + BitVec.ofNat 8 n } .idle false false false u ∧
      TransferOnly s u ∧ ∀ j, j < n → u.rxByte j = some (d.reg (d.ptr + BitVec.ofNat 8 j)) := by
  induction k generalizing s i with
  | zero => exact h.leadsTo_return hk hn hq
  | succ k ih =>
    obtain ⟨t, hl, ht, hqt, hcore⟩ := h.leadsTo_next (by omega) hn hq
    obtain ⟨u, hlu, hu, hcoreu, hrx⟩ := ih ht (by omega) hqt
    exact ⟨u, Nat.add_comm 1 (k + 1) ▸ hl.trans hlu, hu, hcore.trans hcoreu, hrx⟩

/-- Enabling reception asks for the first byte, which is the last if it is the only one (R158). -/
theorem armReceive_asks {n : Nat} {p : Periph} (h : p.Stands .rxHold false true false) :
    (armReceive n p).Asks (n == 1) := by
  obtain ⟨hpe, hstart, hstop, haf, hph, hsb, -, hrx⟩ := h
  rw [armReceive, clearStatus_of_rxHold p hph]
  by_cases hn : n = 1
  · rw [if_pos hn, beq_iff_eq.2 hn]
    exact ⟨hpe, hstart, rfl, rfl, haf, rfl, hsb, rfl, hrx⟩
  · rw [if_neg hn, beq_eq_false_iff_ne.2 hn]
    exact ⟨hpe, hstart, hstop, rfl, haf, rfl, hsb, rfl, hrx⟩

/-- A `read` from the device stores the bytes from `PTR` on and returns Success (R148, R153, R316). -/
theorem Served.leadsTo_returnRead (h : Served d .idle false false false s) {c : Instr} {r : Ret}
    {n : Nat} (hn : n ≠ 0) (hn32 : n ≤ 32) :
    ∃ u, LeadsTo (n + 2) (answered (callRead c r Config.devAddr n s))
        (answered (returnRead c r .success u)) ∧
      Served { d with ptr := d.ptr + BitVec.ofNat 8 n, wcnt := 0 } .idle false false false u ∧
      TransferOnly s u ∧ ∀ j, j < n → u.rxByte j = some (d.reg (d.ptr + BitVec.ofNat 8 j)) := by
  obtain ⟨k, rfl⟩ : ∃ k, n = k + 1 := ⟨n - 1, by omega⟩
  obtain ⟨t, hlt, haddr, hawaits⟩ := h.leadsTo_address (c := c) (r := r) (rw := true)
    (pt := .rd2 Config.devAddr (k + 1)) (pt' := .rd5 Config.devAddr (k + 1))
    (fun _ => rfl) (fun _ _ => rfl)
  obtain ⟨v, hlv, hv, hcore, hbus, -⟩ := haddr.leadsTo_resume hawaits.seq
    (by simp [Point.cond, Periph.observe, haddr.bus.addr])
  have hcore := hawaits.core.trans hcore
  have hafter : ∀ u, resume c r (.rd5 Config.devAddr (k + 1)) (some t.bus.observe) u =
      beginPoll c r (.rd11 Config.devAddr (k + 1) 0) (u.onBus (armReceive (k + 1))) := fun u => by
    simp [resume, afterRd5, Periph.observe, haddr.bus.af]
  obtain ⟨w, hw, hdr, hack, hserved, hawaits'⟩ := (hv.toServing.onBus (armReceive (k + 1))).deliver
    (armReceive_asks hv.bus) c r (.rd11 Config.devAddr (k + 1) 0)
  rw [hafter, hw] at hlv
  have hlast : (k + 1 == 1) = (0 + 1 == k + 1) := by rw [Nat.zero_add]; exact Bool.beq_comm
  rw [hlast] at hserved hack
  have hfirst : Delivered { d with wcnt := 0 } (k + 1) 0 w :=
    ⟨hserved, hack, by rw [hdr, BitVec.add_zero], fun j hj => absurd hj (Nat.not_lt_zero j)⟩
  obtain ⟨u, hlu, hu, hcoreu, hrx⟩ := hfirst.leadsTo_returnRead (Nat.zero_add _) hn32 hawaits'.seq
  have hon : TransferOnly v (v.onBus (armReceive (k + 1))) := rfl
  refine ⟨u, ?_, hu, hcore.trans ((hon.trans hawaits'.core).trans hcoreu), hrx⟩
  have := (hlt.trans hlv).trans hlu
  rwa [Nat.add_comm] at this

/-! ## A register read (41_sensor R201) -/

theorem TransferOnly.setOutcome {t : State} (h : TransferOnly s t) (o : TxOutcome) :
    TransferOnly (s.setOutcome o) (t.setOutcome o) := by
  unfold TransferOnly at *; rw [h]; rfl

/-- A line of a sensor command that reads `n` registers from `reg` on succeeds, `RXBUF` holding them: a
write of the pointer, then the burst. -/
theorem Served.leadsTo_regRead (h : Served d .idle false false false s) {c : Instr} {r r' : Ret}
    {n : Nat} (reg : Byte) (hn : n ≠ 0) (hn32 : n ≤ 32)
    (hr : ∀ u, returnWrite c r .success u = callRead c r' Config.devAddr n (u.setOutcome .success)) :
    ∃ u, LeadsTo (n + 6) (answered (callRegRead c r reg s))
        (answered (returnRead c r' .success u)) ∧
      Served { d with ptr := reg + BitVec.ofNat 8 n, wcnt := 0 } .idle false false false u ∧
      TransferOnly (s.setOutcome .success) u ∧
      ∀ j, j < n → u.rxByte j = some (d.reg (reg + BitVec.ofNat 8 j)) := by
  have hput : Served d .idle false false false (s.putTx 0 reg) :=
    ⟨⟨h.fault, h.agenda, h.agent⟩, h.bus, h.quiet⟩
  have hbyte : ∀ j (hj : j < [reg].length), (s.putTx 0 reg).txByte j = some [reg][j] := fun j hj => by
    obtain rfl : j = 0 := by simpa using hj
    exact memGet_put_same s.mem reg ⟨Nat.le_refl _, by decide⟩
  obtain ⟨v, hlv, hv, hcorev⟩ := hput.leadsTo_returnWrite (c := c) (r := r) hbyte
  have hv' : Served { d with ptr := reg, wcnt := 1 } .idle false false false (v.setOutcome .success) :=
    ⟨⟨hv.fault, hv.agenda, hv.agent⟩, hv.bus, hv.quiet⟩
  obtain ⟨u, hlu, hu, hcoreu, hrx⟩ := hv'.leadsTo_returnRead (c := c) (r := r') hn hn32
  have hcore : TransferOnly s v := TransferOnly.trans (t := s.putTx 0 reg) rfl hcorev
  rw [hr] at hlv
  refine ⟨u, ?_, hu, (hcore.setOutcome _).trans hcoreu, hrx⟩
  have := hlv.trans hlu
  rwa [Nat.add_comm] at this

/-! ## A command under the reference device -/

/-- A command latched, its word in `CMD`. -/
def State.latched (s : State) (w : Word) (q : Seq) : State := (s.setCmd w).setSeq q

@[simp] theorem latched_data (s : State) (w : Word) (q : Seq) : (s.latched w q).data = s.data := rfl
@[simp] theorem countSeqStep_data (s : State) : s.countSeqStep.data = s.data := rfl

theorem Served.latched (h : Served d ph sb addr rxne s) (w : Word) (q : Seq) :
    Served d ph sb addr rxne (s.latched w q) := ⟨⟨h.fault, h.agenda, h.agent⟩, h.bus, h.quiet⟩

/-- The first step of a latched command. -/
theorem Serving.leadsTo_enter {i : Instr} (h : Serving d s) (hq : s.seq = .entry i) :
    LeadsTo 0 s (answered (enter i s.countSeqStep)) := by
  refine ⟨⟨1, ?_⟩, ?_⟩
  · rw [h.runTurns_succ (by simp [State.busy, hq]), seqStep_entry hq]; rfl
  · rw [(unlessFaulted_busWindow_busOnly _).tally]
    exact congrArg Prod.fst (counts_enter i s.countSeqStep)

/-- A command whose first actions lead to a state that takes the next command ends in that state. -/
theorem UnderReference.exec_eq {t : State} {n : Nat} {i : Instr} (h : UnderReference d s)
    (hw : i.wf = true)
    (hl : LeadsTo n (answered (enter i (s.latched (encode i) (.entry i)).countSeqStep)) t)
    (ht : Accepts t) : exec i s = .next t := by
  have hfirst := (h.served.latched (encode i) (.entry i)).toServing.leadsTo_enter rfl
  have hstop : (t.busy && !t.faulted) = false := by simp [(busy_eq_false_iff t).2 ht.1]
  rw [exec_eq_issue, issue_of_idle hw h.accepts.1 h.accepts.2]
  exact congrArg _ ((hfirst.trans hl).runCommand_eq hstop)

/-- The end of a sensor command that has read its data leaves the bus as it is. -/
theorem Served.ended (h : Served d ph sb addr rxne s) (v : Readings) :
    Served d ph sb addr rxne (endCmd ((s.setOutcome .success).setData v)) :=
  ⟨⟨h.fault, h.agenda, h.agent⟩, h.bus, h.quiet⟩

theorem rxVal_of_rxByte {j : Nat} {b : Byte} (h : s.rxByte j = some b) : s.rxVal j = b := by
  rw [State.rxVal, h]; rfl

theorem decodeCal_field (s : State) {k : Nat} (hk : k < 12) : s.decodeCal.field k = s.calField k := by
  interval_cases k <;> rfl

/-- The end of a `READ_CAL` whose block has arrived (R202). -/
theorem returnRead_readCal (s : State) :
    returnRead .readCal .c1Burst .success s = endCmd ((s.setOutcome .success).setData
      { s.data with cal := some s.decodeCal, tfineFresh := false }) := rfl

/-- Settles O24. -/
theorem referenceReadCal : Obligations.ReferenceReadCal := by
  unfold Obligations.ReferenceReadCal
  intro s d h
  obtain ⟨u, hl, hu, hcore, hrx⟩ := (h.served.latched _ _).countSeqStep.leadsTo_regRead
    (c := .readCal) (r := .c1Ptr) (r' := .c1Burst) s.params.regCal (by decide : 24 ≠ 0) (by decide)
    (fun _ => rfl)
  have hdata : u.data = s.data := by rw [hcore.data, setOutcome_data, countSeqStep_data, latched_data]
  rw [returnRead_readCal, hdata, (hu.ended _).answered_eq] at hl
  refine ⟨_, u.decodeCal, h.exec_eq rfl hl ⟨rfl, hu.fault⟩, ⟨rfl, hu.fault⟩, rfl, rfl,
    fun k hk => ?_⟩
  rw [decodeCal_field u hk, State.calField, rxVal_of_rxByte (hrx _ (by omega)),
    rxVal_of_rxByte (hrx _ (by omega))]

/-! ## The formulas written out from the spec (42_compensation) -/

theorem asr_eq_div (a : Int) (k : Nat) : asr a k = a / 2 ^ k :=
  Int.fdiv_eq_ediv_of_nonneg a (by positivity)

theorem compTemp_eq_temperatureOf (c : CalSet) (r : RawSample) :
    compTemp c r.t = Sys2Proof.Claims.temperatureOf c r := by
  simp only [compTemp, compTInt, asr_eq_div, addW, subW, mulW, shlW, wrap, uval, sval, pow_one,
    Sys2Proof.Claims.temperatureOf, Sys2Proof.Claims.temperature, Sys2Proof.Claims.wrapTo]

theorem compPDenom_eq_denominator (tf p1 p2 p3 p4 p5 p6 : Int) :
    compPDenom tf p1 p2 p3 p4 p5 p6 = Sys2Proof.Claims.denominator tf p1 p2 p3 p4 p5 p6 := by
  simp only [compPDenom, asr_eq_div]
  rfl

theorem compPInt_eq_pressure (rawP tf p1 p2 p3 p4 p5 p6 p7 p8 p9 : Int) :
    ((compPInt rawP tf p1 p2 p3 p4 p5 p6 p7 p8 p9).2 : Int) =
      Sys2Proof.Claims.pressure rawP tf p1 p2 p3 p4 p5 p6 p7 p8 p9 := by
  simp only [compPInt, Sys2Proof.Claims.pressure, compPDenom_eq_denominator]
  by_cases hz : (Sys2Proof.Claims.denominator tf p1 p2 p3 p4 p5 p6).2 = 0
  · simp [hz]
  · have hq : ∀ x : Int, (lsr (x % 2 ^ 32).toNat 8 : Int) = x % 2 ^ 32 / 2 ^ 8 := fun x => by
      have := Int.emod_nonneg x (by decide : (2 ^ 32 : Int) ≠ 0)
      simp only [lsr]; omega
    simp only [hz, if_false, hq, compPQuot, asr_eq_div]
    rfl

theorem compPres_eq_pressureOf (c : CalSet) (r : RawSample) (tf : Word) :
    compPres c r.p tf = Sys2Proof.Claims.pressureOf c r tf := by
  unfold compPres Sys2Proof.Claims.pressureOf
  rw [← BitVec.ofInt_natCast, compPInt_eq_pressure]
  rfl

/-- A raw value drops the low four bits of its three bytes (20_memory R92). -/
theorem toNat_rawOf (b0 b1 b2 : Byte) :
    (rawOf b0 b1 b2).toNat = (b0.toNat * 65536 + b1.toNat * 256 + b2.toNat) / 16 := by
  have h0 := b0.isLt
  have h1 := b1.isLt
  have h2 := b2.isLt
  simp only [rawOf, lsr, BitVec.toNat_ofNat]
  omega

/-- What A2 to A4 of `ACQUIRE` make of the data registers (R244). -/
def Readings.computed (v : Readings) (c : CalSet) (r : RawSample) : Readings :=
  { v with
    tfine := some (compTemp c r.t).1, temp := some (compTemp c r.t).2, tfineFresh := true,
    pres := some (compPres c r.p (compTemp c r.t).1) }

theorem acquireRest_of_set {s : State} {c : CalSet} {r : RawSample} (hf : s.fault = none)
    (hc : s.data.cal = some c) (hr : s.data.raw = some r) :
    acquireRest s = endCmd (s.setData (s.data.computed c r)) := by
  have hT : runCompT s = s.setData { s.data with
      tfine := some (compTemp c r.t).1, temp := some (compTemp c r.t).2, tfineFresh := true } := by
    simp [runCompT, hc, hr]
  have hP : runCompP (runCompT s) = s.setData (s.data.computed c r) := by
    rw [hT]
    simp [runCompP, hc, hr, Readings.computed, State.setData]
  have hsafe : (runCompT s).fault = none := by rw [hT]; exact hf
  rw [acquireRest, unlessFaulted_of_safe hsafe, hP]
  exact unlessFaulted_of_safe hf

/-- What a `READ_RAW` that succeeds makes of the data registers (R206). -/
def Readings.sampled (v : Readings) (r : RawSample) : Readings :=
  { v with raw := some r, tfineFresh := false }

/-- The end of an `ACQUIRE` whose sample has arrived. -/
theorem returnRead_acquire {s : State} {c : CalSet} (hf : s.fault = none) (hc : s.data.cal = some c) :
    returnRead .acquire .m1Burst .success s = endCmd ((s.setOutcome .success).setData
      ((s.data.sampled s.decodeRaw).computed c s.decodeRaw)) := by
  have hrest : returnRead .acquire .m1Burst .success s =
      acquireRest ((s.setOutcome .success).setData (s.data.sampled s.decodeRaw)) := rfl
  exact hrest.trans (acquireRest_of_set hf hc rfl)

/-- Settles O26. -/
theorem referenceAcquire : Obligations.ReferenceAcquire := by
  unfold Obligations.ReferenceAcquire
  intro s d c h hc
  obtain ⟨u, hl, hu, hcore, hrx⟩ := (h.served.latched _ _).countSeqStep.leadsTo_regRead
    (c := .acquire) (r := .m1Ptr) (r' := .m1Burst) s.params.regData (by decide : 6 ≠ 0) (by decide)
    (fun _ => rfl)
  have hdata : u.data = s.data := by rw [hcore.data, setOutcome_data, countSeqStep_data, latched_data]
  rw [returnRead_acquire hu.fault (hdata ▸ hc), hdata, (hu.ended _).answered_eq] at hl
  refine ⟨_, u.decodeRaw, h.exec_eq rfl hl ⟨rfl, hu.fault⟩, ⟨rfl, hu.fault⟩, rfl, ?_, ?_⟩
  · have hbyte : ∀ j, j < 6 → u.rxVal j = d.reg (s.params.regData + BitVec.ofNat 8 j) :=
      fun j hj => rxVal_of_rxByte (hrx j hj)
    simp only [State.decodeRaw, toNat_rawOf, hbyte, Nat.reduceLT, and_self]
  · rw [← compPres_eq_pressureOf, ← compTemp_eq_temperatureOf]; rfl

end
end Sys2Proof.Machine
end

section
/-! SUPPORT. The encoding family: decoding and encoding of command words (30_encoding R111–R117; O1, O2,
O3, O4). A word is the word of its fields, and a row of R114 takes them apart again. -/

namespace Sys2Proof

/-! ## The fields of a word (R112) -/

theorem toNat_fieldOpc (w : Word) : (fieldOpc w).toNat = w.toNat % 256 := by
  simp [fieldOpc]

theorem toNat_fieldAddr (w : Word) : (fieldAddr w).toNat = w.toNat / 256 % 128 := by
  simp [fieldAddr, Nat.shiftRight_eq_div_pow]

theorem toNat_fieldRsv0 (w : Word) : (fieldRsv0 w).toNat = w.toNat / 32768 % 2 := by
  simp [fieldRsv0, Nat.shiftRight_eq_div_pow]

theorem toNat_fieldN (w : Word) : (fieldN w).toNat = w.toNat / 65536 % 256 := by
  simp [fieldN, Nat.shiftRight_eq_div_pow]

theorem toNat_fieldRsv1 (w : Word) : (fieldRsv1 w).toNat = w.toNat / 16777216 := by
  have := w.isLt
  simp only [fieldRsv1, BitVec.extractLsb'_toNat, Nat.shiftRight_eq_div_pow]
  omega

theorem fieldAddr_enc (opc : Byte) (a : Addr7) (n : BitVec 8) : fieldAddr (enc opc a n) = a := by
  have hopc := opc.isLt
  have ha := a.isLt
  apply BitVec.eq_of_toNat_eq
  rw [toNat_fieldAddr, enc_toNat]
  omega

theorem fieldN_enc (opc : Byte) (a : Addr7) (n : BitVec 8) : fieldN (enc opc a n) = n := by
  have hopc := opc.isLt
  have ha := a.isLt
  have hn := n.isLt
  apply BitVec.eq_of_toNat_eq
  rw [toNat_fieldN, enc_toNat]
  omega

/-- A word whose reserved fields are 0 is the word of its fields (R117). -/
theorem enc_fields {w : Word} (h0 : fieldRsv0 w = 0) (h1 : fieldRsv1 w = 0) :
    enc (fieldOpc w) (fieldAddr w) (fieldN w) = w := by
  have hrsv0 : (fieldRsv0 w).toNat = 0 := congrArg BitVec.toNat h0
  have hrsv1 : (fieldRsv1 w).toNat = 0 := congrArg BitVec.toNat h1
  rw [toNat_fieldRsv0] at hrsv0
  rw [toNat_fieldRsv1] at hrsv1
  apply BitVec.eq_of_toNat_eq
  rw [enc_toNat, toNat_fieldOpc, toNat_fieldAddr, toNat_fieldN]
  omega

/-! ## From a command to its word and back -/

/-- The decoder on a word that has its reserved fields 0: the row of the opcode. -/
theorem decode_enc {opc : Byte} {r : OpcodeRow} (a : Addr7) (n : BitVec 8)
    (h : opcodeRow opc = some r) : decode (enc opc a n) = rowInstr r a n := by
  obtain ⟨hopc, hrsv0, hrsv1⟩ := Laws.Encoding.fields opc a n
  simp [decode, hopc, h, hrsv0, hrsv1, fieldAddr_enc, fieldN_enc]

/-- The row of R114 a command stands in. -/
def Instr.row : Instr → OpcodeRow
  | .write _ _ => .sized false
  | .read _ _ => .sized true
  | .probe _ _ => .counted
  | i => .plain i

theorem opcodeRow_opcode (i : Instr) : opcodeRow i.opcode = some i.row := by
  cases i <;> rfl

/-- A command's row accepts its operands (R113, R115 checks 3 and 4). -/
theorem rowInstr_row {i : Instr} (hw : i.wf = true) : rowInstr i.row i.addr i.count = .ok i := by
  cases i
  case write a n | read a n => exact if_pos (of_decide_eq_true hw)
  all_goals rfl

/-- Settles O1: the decoder finds the command's fields in its word, and its row by the opcode. -/
theorem decodeOfEncode : Obligations.DecodeOfEncode := by
  unfold Obligations.DecodeOfEncode
  intro i hw
  rw [encode, decode_enc _ _ (opcodeRow_opcode i), rowInstr_row hw]

/-! ## From a word to its command and back -/

/-- The opcode of a row of R114. -/
def OpcodeRow.opcode : OpcodeRow → Byte
  | .plain i => i.opcode
  | .sized false => 0x03
  | .sized true => 0x04
  | .counted => 0x05

/-- An opcode finds its own row: one line of the map of R114 after the other. -/
theorem opcode_of_opcodeRow {opc : Byte} {r : OpcodeRow} (h : opcodeRow opc = some r) :
    r.opcode = opc := by
  simp only [opcodeRow, ite_eq_iff] at h
  repeat' rcases h with ⟨rfl, ⟨⟩⟩ | ⟨-, h⟩
  all_goals rfl

/-- A row gives a command with that row's opcode and the operands it was given. -/
theorem rowInstr_fields {opc : Byte} {r : OpcodeRow} {a : Addr7} {n : BitVec 8} {i : Instr}
    (hr : opcodeRow opc = some r) (h : rowInstr r a n = .ok i) :
    i.opcode = opc ∧ i.addr = a ∧ i.count = n := by
  have hopc := opcode_of_opcodeRow hr
  cases r with
  | plain j =>
    obtain ⟨-, -, haddr, hcount⟩ := plainRow_ok hr
    simp only [rowInstr] at h
    split at h
    · rename_i hz
      cases h
      exact ⟨hopc, haddr.trans hz.1.symm, hcount.trans hz.2.symm⟩
    · cases h
  | sized f =>
    cases f
    all_goals
      simp only [rowInstr] at h
      split at h <;> cases h
      exact ⟨hopc, rfl, rfl⟩
  | counted =>
    cases h
    exact ⟨hopc, rfl, rfl⟩

/-- What the decoder has checked when it answers a command (R115). -/
theorem decode_ok_iff {w : Word} {i : Instr} :
    decode w = .ok i ↔ ∃ r, opcodeRow (fieldOpc w) = some r ∧ (fieldRsv0 w = 0 ∧ fieldRsv1 w = 0) ∧
      rowInstr r (fieldAddr w) (fieldN w) = .ok i := by
  unfold decode
  cases opcodeRow (fieldOpc w) with
  | none => simp
  | some r => simp [ite_eq_iff]

/-- Settles O2: a word that passes the checks has no bit outside the fields of its command. -/
theorem encodeOfDecode : Obligations.EncodeOfDecode := by
  unfold Obligations.EncodeOfDecode
  intro w i h
  obtain ⟨r, hr, ⟨hrsv0, hrsv1⟩, hrow⟩ := decode_ok_iff.1 h
  obtain ⟨hopc, haddr, hcount⟩ := rowInstr_fields hr hrow
  exact ⟨decode_wf h, by rw [encode, hopc, haddr, hcount, enc_fields hrsv0 hrsv1]⟩

/-- Settles O3: the decoder run on each word. -/
theorem sampleWordsDecode : Obligations.SampleWordsDecode := by
  unfold Obligations.SampleWordsDecode
  exact ⟨rfl, rfl, rfl, rfl, rfl, rfl, rfl, rfl, rfl, rfl⟩

/-! ## The checks of R115 in numbers -/

/-- Check 1 of R115: the opcodes of R114. -/
theorem opcodeRow_eq_none_iff (opc : Byte) : opcodeRow opc = none ↔
    opc.toNat ∉ [0x01, 0x02, 0x03, 0x04, 0x05, 0x10, 0x11, 0x12, 0x13, 0x20, 0x21, 0x22] := by
  simp [opcodeRow, ite_eq_iff, BitVec.toNat_eq]

/-- The rows without operands are those of the other opcodes. -/
theorem plainRow_opcode {opc : Byte} {i : Instr} (h : opcodeRow opc = some (.plain i)) :
    opc.toNat ∉ [0x03, 0x04, 0x05] := by
  have hne : ∀ b : Byte, opcodeRow b ≠ some (.plain i) → opc.toNat ≠ b.toNat := by
    intro b hb he
    exact hb (BitVec.eq_of_toNat_eq he ▸ h)
  simpa using ⟨hne 0x03 nofun, hne 0x04 nofun, hne 0x05 nofun⟩

/-- Checks 3 and 4 of R115. -/
theorem rowInstr_ok_iff {opc : Byte} {r : OpcodeRow} (a : Addr7) (n : BitVec 8)
    (hr : opcodeRow opc = some r) : (∃ i, rowInstr r a n = .ok i) ↔
      (opc.toNat ∉ [0x03, 0x04, 0x05] → a.toNat = 0 ∧ n.toNat = 0) ∧
        (opc.toNat ∈ [0x03, 0x04] → n.toNat ≤ 32) := by
  cases r with
  | plain i =>
    have hopc := plainRow_opcode hr
    have hsized : opc.toNat ∉ [0x03, 0x04] := fun h => hopc (List.mem_append_left [0x05] h)
    simp [rowInstr, ite_eq_iff, hopc, hsized, BitVec.toNat_eq]
  | sized f =>
    obtain rfl := opcode_of_opcodeRow hr
    cases f <;> by_cases hn : n.toNat ≤ 32 <;> simp [rowInstr, OpcodeRow.opcode, Config.bufLen, hn]
  | counted =>
    obtain rfl := opcode_of_opcodeRow hr
    simp [rowInstr, OpcodeRow.opcode]

/-- The words that decode are those that pass the four checks of R115. -/
theorem exists_decode_iff (w : Word) : (∃ i, decode w = .ok i) ↔ Machine.ValidWord w := by
  have hrsv : (fieldRsv0 w = 0 ∧ fieldRsv1 w = 0) ↔
      w.toNat / 32768 % 2 = 0 ∧ w.toNat / 16777216 = 0 := by
    rw [← toNat_fieldRsv0, ← toNat_fieldRsv1, BitVec.toNat_eq, BitVec.toNat_eq]
    rfl
  have hopc := opcodeRow_eq_none_iff (fieldOpc w)
  simp only [decode_ok_iff, Machine.ValidWord, ← hrsv, ← toNat_fieldOpc, ← toNat_fieldAddr,
    ← toNat_fieldN]
  cases hr : opcodeRow (fieldOpc w) with
  | none => exact ⟨nofun, fun h => absurd h.1 (hopc.1 hr)⟩
  | some r =>
    rw [← rowInstr_ok_iff (fieldAddr w) (fieldN w) hr]
    rw [hr] at hopc
    simp only [reduceCtorEq, false_iff, not_not] at hopc
    simp [hopc]

end Sys2Proof

namespace Sys2Proof.Machine

/-! ## A write of `CMD` (10_state R31) -/

theorem cmdOf_eq_some_iff {w : Word} {i : Instr} : cmdOf w = some i ↔ decode w = .ok i := by
  unfold cmdOf
  cases decode w <;> simp

theorem hostWrite_cmd {s : State} (w : Word) (hf : s.fault = none) :
    hostWrite 4 0 w s = acceptCmd w (cmdOf w) s :=
  hostWrite_offset (g := .cmd) rfl rfl hf

/-- An idle core latches the word, and starts its command or faults (R31, R264). -/
theorem acceptCmd_idle {s : State} (w : Word) (c : Option Instr) (hq : s.seq = .idle) :
    acceptCmd w c s = c.elim (raiseFault .illegal (fieldOpc w) (s.setCmd w))
      fun i => (s.setCmd w).setSeq (.entry i) := by
  have hb := (busy_eq_false_iff s).2 hq
  cases c <;> simp [acceptCmd, hb]

/-- Settles O4: the decoder's checks are R115's. -/
theorem cmdWriteChecked : Obligations.CmdWriteChecked := by
  unfold Obligations.CmdWriteChecked
  intro s w ⟨hq, hf⟩
  rw [hostWrite_cmd w hf, acceptCmd_idle w _ hq, ← exists_decode_iff]
  constructor
  · rintro ⟨i, hi⟩
    rw [cmdOf_eq_some_iff.2 hi]
    exact ⟨i, hi, rfl, rfl⟩
  · intro hno
    have hnone : cmdOf w = none :=
      Option.eq_none_iff_forall_ne_some.2 fun i hi => hno ⟨i, cmdOf_eq_some_iff.1 hi⟩
    have hinfo : fieldOpc w = BitVec.ofNat 8 w.toNat := BitVec.eq_of_toNat_eq (by simp [fieldOpc])
    rw [hnone, ← hinfo]
    rfl

end Sys2Proof.Machine
end

section
/-! SUPPORT. The encoding family: the host's `ISSUE` line (30_encoding R119, R120; O53, O54). -/

namespace Sys2Proof.Machine

/-! ## The host's turn -/

theorem setAgenda_self {s : State} {l : List Turn} (h : s.agenda = l) : s.setAgenda l = s := by
  rw [← h]; rfl

theorem hostTurn_line {s : State} {op : HostOp} (h : s.host.prog[s.host.pc]? = some op) :
    hostTurn s = hostLine op s := by simp [hostTurn, h]

theorem nextMove_host {s : State} {rest : List Turn} (h : s.agenda = .host :: rest) :
    nextMove s = hostTurn (s.setAgenda rest) := by simp [nextMove, h]

theorem nextMove_reset {s : State} {rest : List Turn} (h : s.agenda = .reset :: rest) :
    nextMove s = .moved (powerReset (s.setAgenda rest)) := by simp [nextMove, h]

/-- With nothing on the agenda the sequencer moves while a command runs, and else the host (log 1). -/
theorem nextMove_nil {s : State} (h : s.agenda = []) : nextMove s =
    if s.busy && !s.faulted then .moved (sequencerTurn s) else hostTurn s := by simp [nextMove, h]

theorem step_of_moved {s t : State} (h : nextMove s = .moved t) : step s = .next t := by
  rw [step, h]; rfl

/-- Where the host stands after its `ISSUE` line, as one update. -/
theorem afterIssue_eq (s : State) : afterIssue s = s.setHost
    (if s.busy then { s.host with waiting := true }
      else { s.host with pc := s.host.pc + 1, waiting := false }) := by
  unfold afterIssue
  cases s.busy <;> rfl

/-- The step of the host at the beginning of an `ISSUE` line. -/
theorem step_of_issue {s t : State} {w : Word} {i : Instr} (hmove : nextMove s = hostTurn t)
    (hline : t.host.prog[t.host.pc]? = some (.issue w)) (hwait : t.host.waiting = false)
    (hdec : decode w = .ok i) : step s = .next (afterIssue (issue i t)) := by
  rw [step, hmove, hostTurn_line hline]
  simp [hostLine, hwait, cmdOf_eq_some_iff.2 hdec, stepMove, exec_eq_issue]

/-- Settles O53: in both cases it is the host's turn, and its line issues the command. -/
theorem stepRunsIssuedCommand : Obligations.StepRunsIssuedCommand := by
  unfold Obligations.StepRunsIssuedCommand
  intro s w i rest hline hwait hdec hturn
  have hmove : nextMove s = hostTurn (s.setAgenda rest) := by
    rcases hturn with ha | ⟨ha, rfl, hstop⟩
    · exact nextMove_host ha
    · rw [nextMove_nil ha, setAgenda_self ha, if_neg]
      rcases hstop with h | h <;> simp [h]
  rw [step_of_issue (t := s.setAgenda rest) hmove hline hwait hdec, exec_eq_issue, afterIssue_eq]

/-- The step of the host at the `WAIT` of an `ISSUE` line. -/
theorem step_at_wait {s t : State} {w : Word} (hmove : nextMove s = hostTurn t)
    (hline : t.host.prog[t.host.pc]? = some (.issue w)) (hwait : t.host.waiting = true) :
    step s = .next (if t.busy then t else t.hostNext) := by
  apply step_of_moved
  have hstay : t.hostAwait = t := by rw [State.hostAwait, ← hwait]; rfl
  rw [hmove, hostTurn_line hline, hostLine, if_pos hwait, afterIssue, hstay]

/-- Settles O54: the host's turn at the `WAIT` only looks at `BUSY`, which a reset clears. -/
theorem issueWaitsWithoutWriting : Obligations.IssueWaitsWithoutWriting := by
  unfold Obligations.IssueWaitsWithoutWriting
  intro s w rest hline hwait
  refine ⟨fun ha => step_at_wait (t := s.setAgenda rest) (nextMove_host ha) hline hwait, fun ha => ?_⟩
  have hreset := step_of_moved (nextMove_reset ha)
  have hnext := step_at_wait (s := powerReset (s.setAgenda [])) (nextMove_nil rfl) hline hwait
  exact ⟨_, _, hreset, hnext, rfl, rfl, rfl, rfl, rfl, rfl⟩

end Sys2Proof.Machine
end

section
/-! SUPPORT. The encoding family: `ISSUE` as one step is the run of its two lines (30_encoding R120; O55).
Between the write of `CMD` and the end of the command the two runs differ in where the host stands, and
nothing the sequencer or the bus agent does reads the host: each of their actions commutes with
`setHost`. -/

namespace Sys2Proof.Machine

section HostBlind
variable (s : State) (h : HostAgent)

@[simp] theorem busy_setHost : (s.setHost h).busy = s.busy := rfl
@[simp] theorem faulted_setHost : (s.setHost h).faulted = s.faulted := rfl
@[simp] theorem setSeq_setHost (q : Seq) : (s.setHost h).setSeq q = (s.setSeq q).setHost h := rfl
@[simp] theorem countSeqStep_setHost : (s.setHost h).countSeqStep = s.countSeqStep.setHost h := rfl
@[simp] theorem countObservation_setHost :
    (s.setHost h).countObservation = s.countObservation.setHost h := rfl
@[simp] theorem setBusAgent_setHost (b : BusAgent) :
    (s.setHost h).setBusAgent b = (s.setBusAgent b).setHost h := rfl

/-! ## Transport (40_bus R150–R154) -/

@[simp] theorem raiseFault_setHost (c : FaultCode) (i : Byte) :
    raiseFault c i (s.setHost h) = (raiseFault c i s).setHost h := rfl
@[simp] theorem endCmd_setHost : endCmd (s.setHost h) = (endCmd s).setHost h := rfl
@[simp] theorem setOutcome_setHost (o : TxOutcome) :
    (s.setHost h).setOutcome o = (s.setOutcome o).setHost h := rfl
@[simp] theorem setReady_setHost (b : Bool) : (s.setHost h).setReady b = (s.setReady b).setHost h := rfl
@[simp] theorem putTx_setHost (j : Nat) (b : Byte) :
    (s.setHost h).putTx j b = (s.putTx j b).setHost h := rfl
@[simp] theorem onBus_setHost (f : Periph → Periph) :
    (s.setHost h).onBus f = (s.onBus f).setHost h := rfl
@[simp] theorem txByte_setHost (j : Nat) : (s.setHost h).txByte j = s.txByte j := rfl
@[simp] theorem beginPoll_setHost (c : Instr) (r : Ret) (pt : Point) :
    beginPoll c r pt (s.setHost h) = (beginPoll c r pt s).setHost h := rfl
@[simp] theorem callStart_setHost (c : Instr) (r : Ret) (pt : Point) :
    callStart c r pt (s.setHost h) = (callStart c r pt s).setHost h := rfl
@[simp] theorem callStop_setHost (c : Instr) (r : Ret) (pt : Point) :
    callStop c r pt (s.setHost h) = (callStop c r pt s).setHost h := rfl
@[simp] theorem callRead_setHost (c : Instr) (r : Ret) (a : Addr7) (n : Nat) :
    callRead c r a n (s.setHost h) = (callRead c r a n s).setHost h := rfl
@[simp] theorem probeAttempt_setHost (c : Instr) (r : Ret) (a : Addr7) (m k : Nat) :
    probeAttempt c r a m k (s.setHost h) = (probeAttempt c r a m k s).setHost h := rfl

theorem firstUnsetFrom_setHost (j k : Nat) : firstUnsetFrom (s.setHost h) j k = firstUnsetFrom s j k := by
  induction k generalizing j with
  | zero => rfl
  | succ k ih => simp [firstUnsetFrom, ih]

@[simp] theorem callWrite_setHost (c : Instr) (r : Ret) (a : Addr7) (n : Nat) :
    callWrite c r a n (s.setHost h) = (callWrite c r a n s).setHost h := by
  unfold callWrite firstUnsetTx
  rw [firstUnsetFrom_setHost]
  split <;> rfl

@[simp] theorem callRegWrite_setHost (c : Instr) (ret : Ret) (r v : Byte) :
    callRegWrite c ret r v (s.setHost h) = (callRegWrite c ret r v s).setHost h := by
  simp [callRegWrite]

@[simp] theorem callRegRead_setHost (c : Instr) (ret : Ret) (r : Byte) :
    callRegRead c ret r (s.setHost h) = (callRegRead c ret r s).setHost h := by simp [callRegRead]

@[simp] theorem sendByte_setHost (c : Instr) (r : Ret) (a : Addr7) (n i : Nat) :
    sendByte c r a n i (s.setHost h) = (sendByte c r a n i s).setHost h := by
  unfold sendByte; split
  · rw [txByte_setHost]; split <;> rfl
  · rfl

@[simp] theorem takeByte_setHost (n i : Nat) :
    takeByte n i (s.setHost h) = (takeByte n i s).setHost h := by
  unfold takeByte; dsimp only; split <;> rfl

/-! ## Compensation and sensor commands (42_compensation, 41_sensor) -/

theorem unlessFaulted_setHost {f : State → State} (hf : ∀ t, f (t.setHost h) = (f t).setHost h) :
    unlessFaulted f (s.setHost h) = (unlessFaulted f s).setHost h := by
  unfold unlessFaulted
  rw [faulted_setHost]
  split
  · rfl
  · exact hf s

theorem runCompT_setHost : runCompT (s.setHost h) = (runCompT s).setHost h := by
  unfold runCompT
  rw [setHost_data]
  split <;> rfl

theorem runCompP_setHost : runCompP (s.setHost h) = (runCompP s).setHost h := by
  unfold runCompP
  rw [setHost_data]
  split
  · rfl
  · rfl
  · split
    · rfl
    · split <;> rfl

@[simp] theorem enterCompT_setHost : enterCompT (s.setHost h) = (enterCompT s).setHost h := by
  rw [enterCompT, runCompT_setHost, unlessFaulted_setHost _ _ fun t => endCmd_setHost t h]; rfl

@[simp] theorem enterCompP_setHost : enterCompP (s.setHost h) = (enterCompP s).setHost h := by
  rw [enterCompP, runCompP_setHost, unlessFaulted_setHost _ _ fun t => endCmd_setHost t h]; rfl

@[simp] theorem acquireRest_setHost : acquireRest (s.setHost h) = (acquireRest s).setHost h := by
  rw [acquireRest, runCompT_setHost, unlessFaulted_setHost _ _ fun t => runCompP_setHost t h,
    unlessFaulted_setHost _ _ fun t => endCmd_setHost t h]; rfl

@[simp] theorem calUpdate_setHost (o : TxOutcome) :
    calUpdate o (s.setHost h) = (calUpdate o s).setHost h := by cases o <;> rfl

@[simp] theorem rawUpdate_setHost (o : TxOutcome) :
    rawUpdate o (s.setHost h) = (rawUpdate o s).setHost h := by cases o <;> rfl

@[simp] theorem idUpdate_setHost (o : TxOutcome) :
    idUpdate o (s.setHost h) = (idUpdate o s).setHost h := by cases o <;> rfl

@[simp] theorem calDone_setHost (c : Instr) (o : TxOutcome) :
    calDone c o (s.setHost h) = (calDone c o s).setHost h := by
  unfold calDone beginConfigure; split <;> simp

@[simp] theorem rawDone_setHost (c : Instr) (o : TxOutcome) :
    rawDone c o (s.setHost h) = (rawDone c o s).setHost h := by
  unfold rawDone; split <;> simp

@[simp] theorem idDone_setHost (c : Instr) (o : TxOutcome) :
    idDone c o (s.setHost h) = (idDone c o s).setHost h := by
  unfold idDone beginReadCal
  simp only [idUpdate_setHost, setHost_data]
  split <;> simp

@[simp] theorem returnProbe_setHost (c : Instr) (r : Ret) (b : Bool) :
    returnProbe c r b (s.setHost h) = (returnProbe c r b s).setHost h := by
  cases r
  case i1 => cases b <;> simp [returnProbe, beginIdentity]
  all_goals rfl

@[simp] theorem callProbe_setHost (c : Instr) (r : Ret) (a : Addr7) (m : Nat) :
    callProbe c r a m (s.setHost h) = (callProbe c r a m s).setHost h := by
  unfold callProbe; split <;> simp

@[simp] theorem nextAttempt_setHost (c : Instr) (r : Ret) (a : Addr7) (m k : Nat) :
    nextAttempt c r a m k (s.setHost h) = (nextAttempt c r a m k s).setHost h := by
  unfold nextAttempt; split <;> simp

@[simp] theorem returnWrite_setHost (c : Instr) (r : Ret) (o : TxOutcome) :
    returnWrite c r o (s.setHost h) = (returnWrite c r o s).setHost h := by
  cases r <;> simp only [returnWrite, configureG2]
  case c1Ptr | m1Ptr | i3Ptr => split <;> simp
  all_goals simp

@[simp] theorem returnRead_setHost (c : Instr) (r : Ret) (o : TxOutcome) :
    returnRead c r o (s.setHost h) = (returnRead c r o s).setHost h := by
  cases r <;> simp [returnRead]

/-! ## One step of the sequencer, and the bus agent -/

theorem resume_setHost (c : Instr) (r : Ret) (pt : Point) (res : Option Obs) :
    resume c r pt res (s.setHost h) = (resume c r pt res s).setHost h := by
  cases pt <;> simp only [resume, afterW4, afterRd5, afterRd11, afterQ5]
  case w1 | w10 | rd2 | q2 | qStop => split <;> simp
  case w4 | rd5 | rd11 | q5 =>
    split
    · simp
    · split <;> simp
  all_goals simp

theorem enter_setHost (c : Instr) : enter c (s.setHost h) = (enter c s).setHost h := by
  cases c <;> simp only [enter]
  case read => split <;> simp
  all_goals simp [beginReadCal, beginConfigure, beginReadRaw]

theorem observeStep_setHost (c : Instr) (r : Ret) (pt : Point) (j : Nat) :
    observeStep c r pt j (s.setHost h) = (observeStep c r pt j s).setHost h := by
  by_cases hcond : pt.cond s.bus.observe = true
  · simp [observeStep, hcond]
  · by_cases hj : j + 1 < pt.budget s.params <;> simp [observeStep, hcond, hj]

theorem seqStep_setHost : seqStep (s.setHost h) = (seqStep s).setHost h := by
  cases hq : s.seq with
  | idle => rw [seqStep_idle hq, seqStep_idle (s := s.setHost h) hq]
  | entry c =>
    rw [seqStep_entry hq, seqStep_entry (s := s.setHost h) hq, countSeqStep_setHost, enter_setHost]
  | poll c r pt j =>
    rw [seqStep_poll hq, seqStep_poll (s := s.setHost h) hq, countSeqStep_setHost, observeStep_setHost]
  | polled c r pt res =>
    rw [seqStep_polled hq, seqStep_polled (s := s.setHost h) hq, countSeqStep_setHost, resume_setHost]

theorem takeEvent_setHost (e : BusEvent) : takeEvent e (s.setHost h) = (takeEvent e s).setHost h := by
  unfold takeEvent
  rw [setHost_bus]
  split <;> rfl

theorem eager_setHost (k : Nat) (d : RefDevice) : eager k d (s.setHost h) = (eager k d s).setHost h := by
  induction k generalizing d s with
  | zero => rfl
  | succ k ih =>
    simp only [eager, setHost_bus, setHost_params]
    split
    · rfl
    · rw [takeEvent_setHost, setBusAgent_setHost]; exact ih _ _

theorem busWindow_setHost : busWindow (s.setHost h) = (busWindow s).setHost h := by
  unfold busWindow
  rw [setHost_busAgent]
  split
  · rfl
  · exact eager_setHost ..

theorem sequencerTurn_setHost : sequencerTurn (s.setHost h) = (sequencerTurn s).setHost h := by
  cases hr : s.busy && !s.faulted
  · rw [sequencerTurn_of_stopped hr, sequencerTurn_of_stopped (s := s.setHost h) hr]
  · simp only [Bool.and_eq_true, Bool.not_eq_true'] at hr
    rw [sequencerTurn_of_running hr.1 hr.2, sequencerTurn_of_running (s := s.setHost h) hr.1 hr.2,
      seqStep_setHost, unlessFaulted_setHost _ _ fun t => busWindow_setHost t h]

end HostBlind

/-! ## The two runs -/

theorem sequencerTurn_agenda (s : State) : (sequencerTurn s).agenda = s.agenda := by
  unfold sequencerTurn; split
  · rw [(unlessFaulted_busWindow_busOnly _).agenda, (seqStep_keeps s).agenda]
  · rfl

/-- With nothing on the agenda a waiting host sees the sequencer's turns alone. -/
theorem runTurns_succ_of_nil (k : Nat) {s : State} (ha : s.agenda = [])
    (hr : (s.busy && !s.faulted) = true) : runTurns (k + 1) s = runTurns k (sequencerTurn s) := by
  rw [runTurns, if_pos hr, waitTurn, ha]

theorem runTurns_setHost (k : Nat) {s : State} (h : HostAgent) (ha : s.agenda = []) :
    runTurns k (s.setHost h) = (runTurns k s).setHost h := by
  induction k generalizing s with
  | zero => rfl
  | succ k ih =>
    cases hr : s.busy && !s.faulted
    · rw [runTurns_of_stopped _ hr, runTurns_of_stopped (s := s.setHost h) _ hr]
    · rw [runTurns_succ_of_nil k ha hr, runTurns_succ_of_nil (s := s.setHost h) k ha hr,
        sequencerTurn_setHost, ih ((sequencerTurn_agenda s).trans ha)]

theorem run_succ {s t : State} (h : step s = .next t) (k : Nat) :
    Sys2Proof.core.run (k + 1) s = Sys2Proof.core.run k t := by
  have hcore : Sys2Proof.core.step s = .next t := h
  simp only [Host.Core.run, hcore]

/-- With nothing on the agenda, the turns of a command are steps of the machine (log 1). -/
theorem exists_run_eq_runTurns (k : Nat) {s : State} (ha : s.agenda = []) :
    ∃ n, Sys2Proof.core.run n s = .next (runTurns k s) := by
  induction k generalizing s with
  | zero => exact ⟨0, rfl⟩
  | succ k ih =>
    cases hr : s.busy && !s.faulted
    · exact ⟨0, by rw [runTurns_of_stopped _ hr]; rfl⟩
    · obtain ⟨n, hn⟩ := ih ((sequencerTurn_agenda s).trans ha)
      have hstep : step s = .next (sequencerTurn s) :=
        step_of_moved (by rw [nextMove_nil ha, if_pos hr])
      exact ⟨n + 1, by rw [run_succ hstep, hn, runTurns_succ_of_nil k ha hr]⟩

/-- A command runs to its end in single turns, wherever the host stands meanwhile. -/
theorem exists_run_eq_runCommand {s : State} (h : HostAgent) (ha : s.agenda = []) :
    ∃ n, Sys2Proof.core.run n (s.setHost h) = .next ((runCommand s).setHost h) := by
  obtain ⟨n, hn⟩ :=
    exists_run_eq_runTurns (s.agenda.length + stepsLeft s.params s.seq) (s := s.setHost h) ha
  exact ⟨n, by rw [hn, runTurns_setHost _ h ha]; rfl⟩

/-- The step of the line `HW 0x00, enc(c)` on an idle core: the command is latched, the host goes on. -/
theorem step_of_cmdLine {s : State} {i : Instr} (hs : Accepts s) (hw : i.wf = true)
    (ha : s.agenda = [])
    (hline : s.host.prog[s.host.pc]? = some (.write 4 0x00 (.lit (encode i)))) :
    step s = .next (s.latched (encode i) (.entry i)).hostNext := by
  obtain ⟨hq, hf⟩ := hs
  have hdec : cmdOf (encode i) = some i := cmdOf_eq_some_iff.2 (decodeOfEncode i hw)
  have hwrite : hostWrite 4 0 (encode i) s = s.latched (encode i) (.entry i) := by
    rw [hostWrite_cmd _ hf, hdec, acceptCmd_idle _ _ hq]; rfl
  apply step_of_moved
  rw [nextMove_nil ha, (busy_eq_false_iff s).2 hq, Bool.false_and, if_neg Bool.false_ne_true,
    hostTurn_line hline, hostLine, HostVal.eval, hwrite]

/-- Settles O55: after the write of `CMD` both runs take the same turns, with the host one line on in
the single turns. -/
theorem issueIsWriteThenWait : Obligations.IssueIsWriteThenWait := by
  unfold Obligations.IssueIsWriteThenWait
  intro s i hs hw ha hline _
  obtain ⟨n, hn⟩ := exists_run_eq_runCommand (s := s.latched (encode i) (.entry i))
    { s.host with pc := s.host.pc + 1, waiting := false } ha
  refine ⟨n + 1, runCommand (s.latched (encode i) (.entry i)), ?_, ?_⟩
  · rw [exec_eq_issue, issue_of_idle hw hs.1 hs.2]; rfl
  · rw [run_succ (step_of_cmdLine hs hw ha hline), (runCommand_keepsRun _).host]
    exact hn

end Sys2Proof.Machine
end

section
/-! SUPPORT. The transport family: the bus agent's events (40_bus R145, R146; O38, O39). -/

namespace Sys2Proof.Machine

/-! ## The bus agent's events (R146) -/

theorem takesStart_iff (ph : Phase) :
    ph.takesStart = true ↔ ph ∈ [Phase.idle, .awaitAddr, .txReady, .rxEnded, .nacked] := by
  cases ph <;> decide

theorem takesStop_iff (ph : Phase) :
    ph.takesStop = true ↔ ph ∈ [Phase.idle, .awaitAddr, .txReady, .rxHold, .rxEnded, .nacked] := by
  cases ph <;> decide

/-- Settles O38: each row of R146's second column is the event's own condition beside `CR.PE`. -/
theorem eventsEnabled : Obligations.EventsEnabled := by
  unfold Obligations.EventsEnabled
  intro s
  refine ⟨?start, ?addrAck, ?addrNack, ?txAck, ?txNack, fun b => ?rx, ?stop,
    fun e he => takeEvent_disabled e s he⟩
  case start => rw [← takesStart_iff]; simp [BusEvent.enabled, and_assoc]
  case stop => rw [← takesStop_iff]; simp [BusEvent.enabled]
  all_goals simp [BusEvent.enabled]

/-- An enabled event has its effect on the peripheral. -/
theorem takeEvent_bus {e : BusEvent} {s : State} (h : e.enabled s.bus = true) :
    (takeEvent e s).bus = e.effect s.bus := by simp [takeEvent, h]

/-- An enabled event is recorded on the wire. -/
theorem takeEvent_wire {e : BusEvent} {s : State} (h : e.enabled s.bus = true) :
    (takeEvent e s).wire = e.wire s.bus :: s.wire := by simp [takeEvent, h]

/-- Settles O39: an event that is taken has its effect, R146's third column. -/
theorem eventEffects : Obligations.EventEffects := by
  unfold Obligations.EventEffects
  intro s
  refine ⟨fun e => ?rest, takeEvent_bus, fun h hw => ?ackWrite, fun h hr => ?ackRead, ?nack,
    takeEvent_bus, fun b h => ⟨takeEvent_wire h, takeEvent_bus h⟩, takeEvent_bus⟩
  case rest =>
    have hagent := takeEvent_busAgent e s
    have hrest := (takeEvent_busOnly e s).rest
    rw [hagent] at hrest
    exact hrest
  case ackWrite => rw [takeEvent_bus h, BusEvent.effect, if_pos hw]
  case ackRead => rw [takeEvent_bus h, BusEvent.effect, if_neg (by simp [hr])]
  case nack =>
    rintro e (rfl | rfl) h
    · exact takeEvent_bus h
    · exact takeEvent_bus h

end Sys2Proof.Machine
end

section
/-! SUPPORT. The transport family: the acknowledge rule of a read (40_bus R158; O58). Only the actions
that await the next received byte can break it; every other run of actions ends the command, begins
another poll, or stops on a fault where it was. -/

namespace Sys2Proof.Machine

/-! ## Where a sub-sequence's end hands over to (10_state R39) -/

/-- The polls a sub-sequence begins with: those of its `start()`. -/
def Point.isStart : Point → Bool
  | .w1 _ _ => true
  | .rd2 _ _ => true
  | .q2 _ _ _ => true
  | _ => false

/-- `t` ends the command running in `s`, or calls the next `start()`, or is `s` stopped by a fault, its
peripheral untouched (60_exceptions R263). -/
def HandsOver (s t : State) : Prop :=
  t.seq = .idle ∨ (∃ c r pt, t.seq = .poll c r pt 0 ∧ pt.isStart = true) ∨
    (t.seq = s.seq ∧ t.bus = s.bus)

theorem HandsOver.of_same {s s' t : State} (h : HandsOver s' t) (hq : s'.seq = s.seq)
    (hb : s'.bus = s.bus) : HandsOver s t := by
  unfold HandsOver at *; rwa [hq, hb] at h

theorem handsOver_endCmd (s t : State) : HandsOver s (endCmd t) := .inl rfl

theorem handsOver_raise (c : FaultCode) (i : Byte) (s : State) : HandsOver s (raiseFault c i s) :=
  .inr (.inr ⟨rfl, rfl⟩)

theorem handsOver_callStart (c : Instr) (r : Ret) {pt : Point} (s t : State)
    (h : pt.isStart = true) : HandsOver s (callStart c r pt t) := .inr (.inl ⟨c, r, pt, rfl, h⟩)

theorem handsOver_callWrite (c : Instr) (r : Ret) (a : Addr7) (n : Nat) (s : State) :
    HandsOver s (callWrite c r a n s) := by
  unfold callWrite; split
  · exact handsOver_raise ..
  · exact handsOver_callStart _ _ _ _ rfl

theorem handsOver_callRegWrite (c : Instr) (ret : Ret) (r v : Byte) (s : State) :
    HandsOver s (callRegWrite c ret r v s) := (handsOver_callWrite ..).of_same rfl rfl

theorem handsOver_callRegRead (c : Instr) (ret : Ret) (r : Byte) (s : State) :
    HandsOver s (callRegRead c ret r s) := (handsOver_callWrite ..).of_same rfl rfl

theorem bus_runCompT (s : State) : (runCompT s).bus = s.bus := by
  rcases runCompT_cases s with ⟨-, h⟩ | ⟨-, -, h⟩ | ⟨_, _, -, -, h⟩ <;> rw [h] <;> rfl

theorem bus_runCompP (s : State) : (runCompP s).bus = s.bus := by
  rcases runCompP_cases s with ⟨-, h⟩ | ⟨-, -, h⟩ | ⟨-, -, -, h⟩ | ⟨-, -, -, -, h⟩ |
    ⟨_, _, _, -, -, -, -, h⟩ <;> rw [h] <;> rfl

theorem handsOver_unlessEnd {s t : State} (hq : t.seq = s.seq) (hb : t.bus = s.bus) :
    HandsOver s (unlessFaulted endCmd t) := by
  unfold unlessFaulted; split
  · exact .inr (.inr ⟨hq, hb⟩)
  · exact handsOver_endCmd ..

theorem handsOver_acquireRest (s : State) : HandsOver s (acquireRest s) := by
  have hP : ∀ t, (runCompP t).seq = t.seq ∧ (runCompP t).bus = t.bus :=
    fun t => ⟨seq_runCompP t, bus_runCompP t⟩
  have h : (unlessFaulted runCompP (runCompT s)).seq = s.seq ∧
      (unlessFaulted runCompP (runCompT s)).bus = s.bus := by
    rw [← seq_runCompT s, ← bus_runCompT s]
    unfold unlessFaulted; split
    · exact ⟨rfl, rfl⟩
    · exact hP _
  exact handsOver_unlessEnd h.1 h.2

theorem bus_rawUpdate (o : TxOutcome) (s : State) : (rawUpdate o s).bus = s.bus := by cases o <;> rfl

theorem bus_calUpdate (o : TxOutcome) (s : State) : (calUpdate o s).bus = s.bus := by cases o <;> rfl

theorem bus_idUpdate (o : TxOutcome) (s : State) : (idUpdate o s).bus = s.bus := by cases o <;> rfl

theorem handsOver_calDone (c : Instr) (o : TxOutcome) (s : State) : HandsOver s (calDone c o s) := by
  unfold calDone; split
  · exact (handsOver_callRegWrite ..).of_same (seq_calUpdate o s) (bus_calUpdate o s)
  · exact handsOver_endCmd ..

theorem handsOver_rawDone (c : Instr) (o : TxOutcome) (s : State) : HandsOver s (rawDone c o s) := by
  unfold rawDone; split
  · exact (handsOver_acquireRest _).of_same (seq_rawUpdate o s) (bus_rawUpdate o s)
  · exact handsOver_endCmd ..

theorem handsOver_idDone (c : Instr) (o : TxOutcome) (s : State) : HandsOver s (idDone c o s) := by
  unfold idDone; dsimp only; split
  · exact (handsOver_callRegRead ..).of_same (seq_idUpdate o s) (bus_idUpdate o s)
  · exact handsOver_endCmd ..

theorem handsOver_returnProbe (c : Instr) (r : Ret) (b : Bool) (s : State) :
    HandsOver s (returnProbe c r b s) := by
  cases r
  case i1 =>
    cases b
    · exact handsOver_endCmd ..
    · exact (handsOver_callRegRead ..).of_same rfl rfl
  all_goals exact handsOver_endCmd ..

theorem handsOver_nextAttempt (c : Instr) (r : Ret) (a : Addr7) (m k : Nat) (s : State) :
    HandsOver s (nextAttempt c r a m k s) := by
  unfold nextAttempt; split
  · exact handsOver_callStart _ _ _ _ rfl
  · exact handsOver_returnProbe ..

theorem handsOver_callProbe (c : Instr) (r : Ret) (a : Addr7) (m : Nat) (s : State) :
    HandsOver s (callProbe c r a m s) := by
  unfold callProbe; split
  · exact handsOver_returnProbe ..
  · exact handsOver_callStart _ _ _ _ rfl

/-- What follows a sub-sequence that leaves `OUTCOME` behind it (R58). -/
theorem handsOver_returnRead (c : Instr) (r : Ret) (o : TxOutcome) (s : State) :
    HandsOver s (returnRead c r o s) := by
  cases r
  case c1Burst => exact (handsOver_calDone ..).of_same rfl rfl
  case m1Burst => exact (handsOver_rawDone ..).of_same rfl rfl
  case i3Burst => exact (handsOver_idDone ..).of_same rfl rfl
  all_goals exact handsOver_endCmd ..

theorem handsOver_returnWrite (c : Instr) (r : Ret) (o : TxOutcome) (s : State) :
    HandsOver s (returnWrite c r o s) := by
  cases r <;> simp only [returnWrite]
  case g1 => exact (handsOver_callRegWrite ..).of_same rfl rfl
  case c1Ptr =>
    split
    · exact handsOver_callStart _ _ _ _ rfl
    · exact (handsOver_calDone ..).of_same rfl rfl
  case m1Ptr =>
    split
    · exact handsOver_callStart _ _ _ _ rfl
    · exact (handsOver_rawDone ..).of_same rfl rfl
  case i3Ptr =>
    split
    · exact handsOver_callStart _ _ _ _ rfl
    · exact (handsOver_idDone ..).of_same rfl rfl
  all_goals exact handsOver_endCmd ..

/-! ## The acknowledge rule (R158) -/

/-- The acknowledge rule of a state: it holds of its sequencer and its `CR.ACK`. -/
def AckRule (s : State) : Prop := s.seq.ackRule s.bus.cr.ack

/-- Of a poll that awaits no received byte the rule says nothing. -/
def Point.awaitsByte : Point → Bool
  | .rd11 _ _ _ => true
  | _ => false

theorem ackRule_of_other {pt : Point} (h : pt.awaitsByte = false) (ack : Bool) (c : Instr) (r : Ret) :
    (∀ j, (Seq.poll c r pt j).ackRule ack) ∧ ∀ res, (Seq.polled c r pt res).ackRule ack := by
  cases pt
  case rd11 => cases h
  all_goals exact ⟨fun _ => trivial, fun _ => trivial⟩

theorem awaitsByte_of_isStart {pt : Point} (h : pt.isStart = true) : pt.awaitsByte = false := by
  cases pt
  case rd11 => cases h
  all_goals rfl

theorem ackRule_beginPoll (c : Instr) (r : Ret) {pt : Point} (s : State)
    (h : pt.awaitsByte = false) : AckRule (beginPoll c r pt s) := (ackRule_of_other h _ c r).1 0

theorem HandsOver.ackRule {s t : State} (h : HandsOver s t) (hs : AckRule s) : AckRule t := by
  unfold AckRule at *
  rcases h with hq | ⟨c, r, pt, hq, hpt⟩ | ⟨hq, hb⟩ <;> rw [hq]
  · trivial
  · exact (ackRule_of_other (awaitsByte_of_isStart hpt) _ c r).1 0
  · rwa [hb]

theorem ackRule_sendByte (c : Instr) (r : Ret) (a : Addr7) (n i : Nat) {s : State} (h : AckRule s) :
    AckRule (sendByte c r a n i s) := by
  unfold sendByte; split
  · split
    · exact ackRule_beginPoll _ _ _ rfl
    · exact h
  · exact ackRule_beginPoll _ _ _ rfl

/-- RD9 puts ACK on for the first byte unless it is the only one. -/
theorem armReceive_ack {n : Nat} (hn : 0 < n) (p : Periph) :
    (armReceive n p).cr.ack = decide (0 + 1 < n) := by
  unfold armReceive; split
  · subst n; rfl
  · rw [decide_eq_true (by omega)]; rfl

/-- RD14 puts ACK off after the second-to-last byte and leaves it alone after any other. -/
theorem takeByte_ack (n i : Nat) (s : State) :
    (takeByte n i s).bus.cr.ack = if i + 2 = n then false else s.bus.cr.ack := by
  unfold takeByte; dsimp only; split <;> rfl

/-- Taking a byte that is not the last keeps the rule for the next one (R158). -/
theorem takeByte_ack_next {n i : Nat} {s : State} (hi : i + 1 < n)
    (h : s.bus.cr.ack = decide (i + 1 < n)) :
    (takeByte n i s).bus.cr.ack = decide (i + 1 + 1 < n) := by
  rw [takeByte_ack, h, decide_eq_true hi]
  split
  · exact (decide_eq_false (by omega)).symm
  · exact (decide_eq_true (by omega)).symm

/-- Taking the last byte leaves ACK alone. -/
theorem takeByte_ack_last {n i : Nat} (s : State) (hi : ¬i + 1 < n) :
    (takeByte n i s).bus.cr.ack = s.bus.cr.ack := by
  rw [takeByte_ack, if_neg (by omega)]

theorem takeByte_seq (n i : Nat) (s : State) : (takeByte n i s).seq = s.seq := by
  unfold takeByte; dsimp only; split <;> rfl

theorem ackRule_afterRd5 (c : Instr) (r : Ret) (a : Addr7) {n : Nat} (res : Option Obs) (s : State)
    (hn : 0 < n) : AckRule (afterRd5 c r a n res s) := by
  unfold afterRd5; split
  · exact ackRule_beginPoll _ _ _ rfl
  · split
    · exact ackRule_beginPoll _ _ _ rfl
    · exact armReceive_ack hn s.bus

theorem ackRule_afterRd11 {c : Instr} {r : Ret} {a : Addr7} {n i : Nat} {res : Option Obs} {s : State}
    (hq : s.seq = .polled c r (.rd11 a n i) res) (h : AckRule s) :
    AckRule (afterRd11 c r a n i res s) := by
  have hack : s.bus.cr.ack = decide (i + 1 < n) := by unfold AckRule at h; rwa [hq] at h
  unfold afterRd11; split
  · exact ackRule_beginPoll _ _ _ rfl
  · split
    · exact takeByte_ack_next ‹_› hack
    · refine (handsOver_returnRead ..).ackRule ?_
      unfold AckRule at *
      rwa [takeByte_seq, takeByte_ack_last s ‹_›]

theorem ackRule_resume {c : Instr} {r : Ret} {pt : Point} {res : Option Obs} {s : State}
    (hw : c.wf = true) (hat : atPoint s.params c r pt = true) (hq : s.seq = .polled c r pt res)
    (h : AckRule s) : AckRule (resume c r pt res s) := by
  cases pt <;> simp only [resume]
  case s2 | p2 => trivial
  case w1 | rd2 => split <;> exact ackRule_beginPoll _ _ _ rfl
  case w4 =>
    unfold afterW4; split
    · exact ackRule_beginPoll _ _ _ rfl
    · split
      · exact ackRule_beginPoll _ _ _ rfl
      · exact ackRule_sendByte _ _ _ _ _ h
  case w10 =>
    split
    · exact ackRule_sendByte _ _ _ _ _ h
    · exact ackRule_beginPoll _ _ _ rfl
  case wStop => exact (handsOver_returnWrite ..).ackRule h
  case rd5 => exact ackRule_afterRd5 _ _ _ _ _ (site_read hat (.inr (.inl rfl)) hw).2
  case rd11 => exact ackRule_afterRd11 hq h
  case rdStop => exact (handsOver_returnRead ..).ackRule h
  case q2 =>
    split
    · exact ackRule_beginPoll _ _ _ rfl
    · exact (handsOver_nextAttempt ..).ackRule h
  case q5 =>
    unfold afterQ5; split
    · exact ackRule_beginPoll _ _ _ rfl
    · split <;> exact ackRule_beginPoll _ _ _ rfl
  case qStop =>
    split
    · exact (handsOver_returnProbe ..).ackRule h
    · exact (handsOver_nextAttempt ..).ackRule h

theorem ackRule_enter {c : Instr} {s : State} (h : AckRule s) : AckRule (enter c s) := by
  cases c <;> simp only [enter]
  case start | stop => exact ackRule_beginPoll _ _ _ rfl
  case write => exact (handsOver_callWrite ..).ackRule h
  case read =>
    split
    · trivial
    · exact ackRule_beginPoll _ _ _ rfl
  case probe | init => exact (handsOver_callProbe ..).ackRule h
  case readCal | readRaw | acquire => exact (handsOver_callRegRead ..).ackRule h
  case configure => exact (handsOver_callRegWrite ..).ackRule h
  case compT => exact (handsOver_unlessEnd (seq_runCompT s) (bus_runCompT s)).ackRule h
  case compP => exact (handsOver_unlessEnd (seq_runCompP s) (bus_runCompP s)).ackRule h

theorem ackRule_observeStep {c : Instr} {r : Ret} {pt : Point} {j : Nat} {s : State}
    (hq : s.seq = .poll c r pt j) (h : AckRule s) : AckRule (observeStep c r pt j s) := by
  have hsame : ∀ q : Seq, (∀ ack, q.ackRule ack ↔ (Seq.poll c r pt j).ackRule ack) →
      AckRule (s.countObservation.setSeq q) := fun q hiff => by
    unfold AckRule at h; rw [hq] at h
    exact (hiff _).2 h
  unfold observeStep; dsimp only; split_ifs
  all_goals exact hsame _ fun _ => by cases pt <;> exact Iff.rfl

theorem ackRule_seqStep {s : State} (hl : s.seq.legal s.params) (h : AckRule s) :
    AckRule (seqStep s) := by
  cases hq : s.seq with
  | idle => rwa [seqStep_idle hq]
  | entry c => rw [seqStep_entry hq]; exact ackRule_enter (s := s.countSeqStep) h
  | poll c r pt j => rw [seqStep_poll hq]; exact ackRule_observeStep (s := s.countSeqStep) hq h
  | polled c r pt res =>
    rw [hq] at hl
    obtain ⟨hw, hat, -⟩ := hl
    rw [seqStep_polled hq]
    exact ackRule_resume (s := s.countSeqStep) hw hat hq h

/-- The bus agent writes neither `SEQ` nor `CR.ACK`. -/
theorem BusOnly.ackRule {s t : State} (ho : BusOnly s t) (h : AckRule s) : AckRule t := by
  unfold AckRule at *; rwa [ho.seq, ho.ack]

theorem ackRule_of_idle {s : State} (h : s.busy = false) : AckRule s := by
  unfold AckRule; rw [(busy_eq_false_iff s).1 h]; trivial

/-- The acknowledge rule at program points of the running command. -/
abbrev LegalAck (s : State) : Prop := s.seq.legal s.params ∧ AckRule s

theorem invariant_legalAck : Invariant LegalAck where
  agenda _ _ h := h
  seqStep s h _ _ := ⟨seqStep_legal s h.1, ackRule_seqStep h.1 h.2⟩
  event e s h _ :=
    have ho := takeEvent_busOnly e s
    ⟨by rw [ho.seq, ho.params]; exact h.1, ho.ackRule h.2⟩
  device _ _ _ _ h _ := h
  reset _ _ := ⟨trivial, trivial⟩
  goto _ _ h := h
  await _ h := h
  var _ _ _ h := h
  draws _ _ h := h
  raised _ _ _ h _ := h
  cmd _ _ h _ := h
  entry _ _ _ _ _ hw := ⟨hw, trivial⟩
  ctrl _ _ h hb := ⟨h.1, ackRule_of_idle hb⟩
  txByte _ _ _ h _ := h

/-- Settles O58: the rule is an `Invariant`, and a byte is acknowledged as `CR.ACK` says (R146). -/
theorem lastByteIsNacked : Obligations.LastByteIsNacked := by
  unfold Obligations.LastByteIsNacked
  refine ⟨fun s t hl hack hs => (invariant_legalAck.step ⟨hl, hack⟩ hs).2, ?_⟩
  intro s c r a n i j b hq hack he
  have hrule : s.bus.cr.ack = decide (i + 1 < n) := by rwa [hq] at hack
  rw [← hrule]
  simp [takeEvent, he, BusEvent.wire]

end Sys2Proof.Machine
end

section
/-! SUPPORT. The transport family: what holds along a transport command on any bus (40_bus R150–R154,
R157, R159, R160; O15, O16, O19, O20, O21). A `Course` says what holds at each place the sequencer comes
to; the bus agent's moves in between and each run of actions keep it. -/

namespace Sys2Proof.Machine

/-! ## Between two steps of the sequencer -/

/-- What happens around the sequencer's actions: the bus agent's moves, the turns of the agenda, and the
count of steps. `AF` is sticky, and a requested STOP stays requested until it is on the wire (R146). -/
structure BusMoves (s t : State) : Prop where
  rest : t = { s with bus := t.bus, wire := t.wire, agenda := t.agenda, busAgent := t.busAgent,
                      tally := { s.tally with seqSteps := t.tally.seqSteps } }
  ack : t.bus.cr.ack = s.bus.cr.ack
  af : s.bus.sr1.af = true → t.bus.sr1.af = true
  wire : ∃ l, t.wire = l ++ s.wire ∧
    (s.bus.cr.stop = true → t.bus.cr.stop = true ∨ WireEvent.stop ∈ l)

section
variable {s t : State} (h : BusMoves s t)
include h
theorem BusMoves.seq : t.seq = s.seq := by rw [h.rest]
theorem BusMoves.data : t.data = s.data := by rw [h.rest]
theorem BusMoves.mem : t.mem = s.mem := by rw [h.rest]
theorem BusMoves.draws : t.draws = s.draws := by rw [h.rest]
theorem BusMoves.fault : t.fault = s.fault := by rw [h.rest]
theorem BusMoves.ready : t.ready = s.ready := by rw [h.rest]
theorem BusMoves.outcome : t.outcome = s.outcome := by rw [h.rest]
theorem BusMoves.starts : t.tally.starts = s.tally.starts := by rw [h.rest]
theorem BusMoves.observations : t.tally.observations = s.tally.observations := by rw [h.rest]
end

/-- Only the STOP itself clears a requested STOP (R146). -/
theorem effect_stop (p : Periph) {e : BusEvent} (h : e ≠ .stop) :
    (e.effect p).cr.stop = p.cr.stop := by
  cases e
  case stop => exact absurd rfl h
  case addrAck => unfold BusEvent.effect; dsimp only; split <;> rfl
  all_goals rfl

theorem busMoves_takeEvent {e : BusEvent} {s : State} (he : e.enabled s.bus = true) :
    BusMoves s (takeEvent e s) where
  rest := by simp [takeEvent, he, State.setBus, State.setWire]
  ack := (takeEvent_busOnly e s).ack
  af haf := by rw [takeEvent_bus he]; exact effect_af s.bus e haf
  wire := by
    refine ⟨[e.wire s.bus], takeEvent_wire he, fun hstop => ?_⟩
    rw [takeEvent_bus he]
    by_cases h : e = .stop
    · subst h; exact .inr (List.mem_singleton.2 rfl)
    · exact .inl ((effect_stop s.bus h).trans hstop)

theorem busMoves_setAgenda (s : State) (l : List Turn) : BusMoves s (s.setAgenda l) :=
  ⟨rfl, rfl, id, [], rfl, .inl⟩

theorem busMoves_setBusAgent (s : State) (b : BusAgent) : BusMoves s (s.setBusAgent b) :=
  ⟨rfl, rfl, id, [], rfl, .inl⟩

theorem busMoves_countSeqStep (s : State) : BusMoves s s.countSeqStep :=
  ⟨rfl, rfl, id, [], rfl, .inl⟩

/-! ## A course of a transport command -/

/-- What holds along a command that is called by no other: `base` all along, `first` until its first
step, `poll pt res` at the poll `pt`, where `res` is the observation that ended it or `none`, and `ended`
once it has ended. -/
structure Course where
  base : State → Prop
  first : State → Prop
  poll : Point → Option Obs → State → Prop
  ended : State → Prop

/-- What the course says of a state whose sequencer stands at a place of `c`. -/
def Course.there (A : Course) (c : Instr) : Seq → State → Prop
  | .idle, s => A.ended s
  | .entry c', s => c' = c ∧ A.first s
  | .poll c' r pt _, s => c' = c ∧ r = .top ∧ A.poll pt none s
  | .polled c' r pt res, s => c' = c ∧ r = .top ∧ A.poll pt res s

/-- The command `c` is on its course in `s`. -/
abbrev Course.Holds (A : Course) (c : Instr) (s : State) : Prop := A.base s ∧ A.there c s.seq s

/-- What keeps a command on its course: its first step, the observations, the runs of actions after the
polls, and what happens around them. -/
structure Course.Kept (A : Course) (c : Instr) : Prop where
  moves : ∀ {s t}, BusMoves s t → A.base s → A.base t ∧ (A.first s → A.first t) ∧
    (∀ pt res, A.poll pt res s → A.poll pt res t) ∧ (A.ended s → A.ended t)
  enter : ∀ {s}, s.seq = .entry c → A.base s → A.first s → A.Holds c (enter c s)
  observe : ∀ {s pt} q, A.base s → A.poll pt none s → A.base (s.countObservation.setSeq q) ∧
    A.poll pt none (s.countObservation.setSeq q) ∧
    A.poll pt (some s.bus.observe) (s.countObservation.setSeq q)
  resume : ∀ {s pt res}, s.seq = .polled c .top pt res → A.base s → A.poll pt res s →
    A.Holds c (resume c .top pt res s)

/-- What a latched command leaves alone as it runs. -/
theorem KeepsRun.of_latched {s t : State} {w : Word} {q : Seq} (h : KeepsRun (s.latched w q) t) :
    t.cmd = w ∧ t.ctrlEn = s.ctrlEn ∧ t.bus.cr.pe = s.bus.cr.pe ∧ t.params = s.params ∧
      t.host = s.host := ⟨h.cmd, h.ctrlEn, h.pe, h.params, h.host⟩

namespace Course.Kept
variable {A : Course} {c : Instr} (hA : A.Kept c)
include hA

theorem holds_moves {s t : State} (hm : BusMoves s t) (h : A.Holds c s) : A.Holds c t := by
  obtain ⟨hbase, hthere⟩ := h
  obtain ⟨mbase, mfirst, mpoll, mended⟩ := hA.moves hm hbase
  refine ⟨mbase, ?_⟩
  rw [hm.seq]
  cases hq : s.seq with rw [hq] at hthere
  | idle => exact mended hthere
  | entry c' => exact ⟨hthere.1, mfirst hthere.2⟩
  | poll c' r pt j => exact ⟨hthere.1, hthere.2.1, mpoll pt none hthere.2.2⟩
  | polled c' r pt res => exact ⟨hthere.1, hthere.2.1, mpoll pt res hthere.2.2⟩

theorem holds_observeStep {s : State} {pt : Point} (j : Nat) (hbase : A.base s)
    (hpoll : A.poll pt none s) : A.Holds c (observeStep c .top pt j s) := by
  have hseen := fun q => hA.observe q hbase hpoll
  unfold observeStep; dsimp only; split_ifs
  · obtain ⟨hb, -, hsome⟩ := hseen (.polled c .top pt (some s.bus.observe))
    exact ⟨hb, rfl, rfl, hsome⟩
  · obtain ⟨hb, hnone, -⟩ := hseen (.poll c .top pt (j + 1))
    exact ⟨hb, rfl, rfl, hnone⟩
  · obtain ⟨hb, hnone, -⟩ := hseen (.polled c .top pt none)
    exact ⟨hb, rfl, rfl, hnone⟩

theorem holds_seqStep {s : State} (h : A.Holds c s) : A.Holds c (seqStep s) := by
  obtain ⟨hbase, hthere⟩ := hA.holds_moves (busMoves_countSeqStep s) h
  cases hq : s.seq with rw [show s.countSeqStep.seq = _ from hq] at hthere
  | idle => rwa [seqStep_idle hq]
  | entry c' =>
    obtain ⟨rfl, hfirst⟩ := hthere
    rw [seqStep_entry hq]; exact hA.enter hq hbase hfirst
  | poll c' r pt j =>
    obtain ⟨rfl, rfl, hpoll⟩ := hthere
    rw [seqStep_poll hq]; exact hA.holds_observeStep j hbase hpoll
  | polled c' r pt res =>
    obtain ⟨rfl, rfl, hpoll⟩ := hthere
    rw [seqStep_polled hq]; exact hA.resume hq hbase hpoll

theorem carried : Carried (A.Holds c) where
  agenda s l h := hA.holds_moves (busMoves_setAgenda s l) h
  seqStep _ h _ _ := hA.holds_seqStep h
  event _ _ h he := hA.holds_moves (busMoves_takeEvent he) h
  device s _ _ _ h _ := hA.holds_moves (busMoves_setBusAgent s _) h

/-- A command that sets out on its course stays on it, and has ended at its end unless it faulted. -/
theorem exec {s : State} (hw : c.wf = true) (hs : Accepts s)
    (hbase : A.base (s.latched (encode c) (.entry c)))
    (hfirst : A.first (s.latched (encode c) (.entry c))) :
    ∃ t, Machine.exec c s = .next t ∧ A.base t ∧
      (t.fault = none → Sys2Proof.Claims.Ended c s t ∧ A.ended t) := by
  have hrun := hA.carried.runCommand _ ⟨hbase, rfl, hfirst⟩
  refine ⟨_, by rw [exec_eq_issue, issue_of_idle hw hs.1 hs.2]; rfl, hrun.1, fun hf => ?_⟩
  have hidle : (runCommand (s.latched (encode c) (.entry c))).seq = .idle := by
    rcases runCommand_ends (s.latched (encode c) (.entry c)) with h | h
    · exact (busy_eq_false_iff _).1 h
    · rw [(faulted_eq_false_iff _).2 hf] at h; exact absurd h Bool.false_ne_true
  have hended := hrun.2
  rw [hidle] at hended
  exact ⟨⟨⟨hidle, hf⟩, (runCommand_keepsRun _).of_latched⟩, hended⟩

end Course.Kept

/-! ## Frames (10_state R58, R59) -/

/-- No data register written, nothing drawn, no fault. -/
def Untouched (s₀ s : State) : Prop :=
  s.data = s₀.data ∧ s.draws = s₀.draws ∧ s.fault = none

theorem Untouched.moves {s₀ s t : State} (h : Untouched s₀ s) (hm : BusMoves s t) : Untouched s₀ t := by
  unfold Untouched; rwa [hm.data, hm.draws, hm.fault]

theorem untouched_latched {s : State} (w : Word) (q : Seq) (hf : s.fault = none) :
    Untouched s (s.latched w q) := ⟨rfl, rfl, hf⟩

/-- The frame of `START`, `STOP` and `WRITE`: buffers and `READY` stay. -/
def SendFrame (s₀ s : State) : Prop := Untouched s₀ s ∧ s.mem = s₀.mem ∧ s.ready = s₀.ready

theorem SendFrame.moves {s₀ s t : State} (h : SendFrame s₀ s) (hm : BusMoves s t) :
    SendFrame s₀ t := by
  obtain ⟨hu, hmem, hready⟩ := h
  exact ⟨hu.moves hm, hm.mem.trans hmem, hm.ready.trans hready⟩

theorem sendFrame_latched {s : State} (w : Word) (q : Seq) (hf : s.fault = none) :
    SendFrame s (s.latched w q) := ⟨untouched_latched w q hf, rfl, rfl⟩

/-- `START` and `STOP` on any bus (R150, R151). -/
def bareCourse (s₀ : State) : Course where
  base := SendFrame s₀
  first _ := True
  poll pt _ _ := pt = .s2 ∨ pt = .p2
  ended s := s.outcome ≠ .addressNack

theorem bareCourse_kept (s₀ : State) {c : Instr} (hc : c = .start ∨ c = .stop) :
    (bareCourse s₀).Kept c where
  moves hm hb := ⟨hb.moves hm, id, fun _ _ => id, fun h => hm.outcome.trans_ne h⟩
  enter _ hb _ := by
    rcases hc with rfl | rfl
    · exact ⟨hb, rfl, rfl, .inl rfl⟩
    · exact ⟨hb, rfl, rfl, .inr rfl⟩
  observe _ hb hp := ⟨hb, hp, hp⟩
  resume {_ _ res} _ hb hp := by
    have hout : pollOutcome res ≠ .addressNack := by cases res <;> exact TxOutcome.noConfusion
    rcases hp with rfl | rfl
    · exact ⟨hb, hout⟩
    · exact ⟨hb, hout⟩

/-- The polls of a `write(a, n)` (R152). -/
inductive WritePoll (a : Addr7) (n : Nat) : Point → Prop where
  | start : WritePoll a n (.w1 a n)
  | address : WritePoll a n (.w4 a n)
  | byte (i : Nat) : WritePoll a n (.w10 a n i)
  | stop (o : TxOutcome) : WritePoll a n (.wStop o)

/-- `WRITE a, n` on any bus, its bytes set (R152). -/
def writeCourse (s₀ : State) (a : Addr7) (n : Nat) : Course where
  base := SendFrame s₀
  first _ := True
  poll pt _ _ := WritePoll a n pt
  ended _ := True

theorem SendFrame.sendByte {s₀ s : State} {a : Addr7} {n : Nat} (h : SendFrame s₀ s)
    (htx : TxReady s₀ n) (c : Instr) (i : Nat) :
    (writeCourse s₀ a n).Holds c (sendByte c .top a n i s) := by
  unfold Machine.sendByte; split
  · rename_i hi
    obtain ⟨b, hb⟩ := Option.isSome_iff_exists.1 (htx i hi)
    rw [txByte_of_mem h.2.1 i, hb]
    exact ⟨h, rfl, rfl, .byte i⟩
  · exact ⟨h, rfl, rfl, .stop _⟩

theorem writeCourse_kept {s₀ : State} (a : Addr7) (n : BitVec 8) (htx : TxReady s₀ n.toNat) :
    (writeCourse s₀ a n.toNat).Kept (.write a n) where
  moves hm hb := ⟨hb.moves hm, id, fun _ _ => id, id⟩
  enter {s} _ hb _ := by
    have hready : TxReady s n.toNat := fun j hj => by
      rw [txByte_of_mem hb.2.1 j]; exact htx j hj
    rw [enter, callWrite, firstUnsetTx_eq_none hready]
    exact ⟨hb, rfl, rfl, .start⟩
  observe _ hb hp := ⟨hb, hp, hp⟩
  resume {s _ res} _ hb hp := by
    cases hp with
    | start =>
      cases res
      · exact ⟨hb, rfl, rfl, .stop _⟩
      · exact ⟨hb, rfl, rfl, .address⟩
    | address =>
      rw [resume]; unfold afterW4; split
      · exact ⟨hb, rfl, rfl, .stop _⟩
      · split
        · exact ⟨hb, rfl, rfl, .stop _⟩
        · exact SendFrame.sendByte (s := s.onBus Periph.clearStatus) hb htx _ 0
    | byte i =>
      cases res
      · exact ⟨hb, rfl, rfl, .stop _⟩
      · exact SendFrame.sendByte hb htx _ (i + 1)
    | stop o => exact ⟨hb, trivial⟩

/-- The frame of `PROBE`: buffers and `OUTCOME` stay. -/
def ProbeFrame (s₀ s : State) : Prop := Untouched s₀ s ∧ s.mem = s₀.mem ∧ s.outcome = s₀.outcome

theorem ProbeFrame.moves {s₀ s t : State} (h : ProbeFrame s₀ s) (hm : BusMoves s t) :
    ProbeFrame s₀ t := by
  obtain ⟨hu, hmem, hout⟩ := h
  exact ⟨hu.moves hm, hm.mem.trans hmem, hm.outcome.trans hout⟩

/-- Nothing counted since `s₀`: no observation, no `start()`. -/
def NothingCounted (s₀ s : State) : Prop :=
  s.tally.starts = s₀.tally.starts ∧ s.tally.observations = s₀.tally.observations

theorem nothingCounted_latched (s : State) (w : Word) (q : Seq) : NothingCounted s (s.latched w q) :=
  ⟨rfl, rfl⟩

theorem NothingCounted.moves {s₀ s t : State} (h : NothingCounted s₀ s) (hm : BusMoves s t) :
    NothingCounted s₀ t := ⟨hm.starts.trans h.1, hm.observations.trans h.2⟩

theorem probeFrame_latched {s : State} (w : Word) (q : Seq) (hf : s.fault = none) :
    ProbeFrame s (s.latched w q) := ⟨untouched_latched w q hf, rfl, rfl⟩

/-- The polls of a `probe(a, m)` in its attempt `k` (R154). -/
inductive ProbePoll (a : Addr7) (m k : Nat) : Point → Prop where
  | start : ProbePoll a m k (.q2 a m k)
  | address : ProbePoll a m k (.q5 a m k)
  | stop (acked : Bool) : ProbePoll a m k (.qStop a m k acked)

/-- `PROBE a, m` on any bus (R154, R160): attempt `k` is the `k`-th call of `start()`. -/
def probeCourse (s₀ : State) (a : Addr7) (m : Nat) : Course where
  base := ProbeFrame s₀
  first := NothingCounted s₀
  poll pt _ s := ∃ k, k ≤ m ∧ s.tally.starts = s₀.tally.starts + k ∧ 0 < k ∧ ProbePoll a m k pt
  ended s := s.tally.starts ≤ s₀.tally.starts + m ∧
    (s.ready = false → s.tally.starts = s₀.tally.starts + m) ∧
    (m = 0 → s.ready = false ∧ s.tally.observations = s₀.tally.observations)

theorem probeCourse_next {s₀ s : State} {a : Addr7} {m k : Nat} (c : Instr) (hb : ProbeFrame s₀ s)
    (hk : k ≤ m) (hs : s.tally.starts = s₀.tally.starts + k) (hpos : 0 < k) :
    (probeCourse s₀ a m).Holds c (nextAttempt c .top a m k s) := by
  unfold nextAttempt; split
  · rename_i hlt
    exact ⟨hb, rfl, rfl, k + 1, hlt, congrArg (· + 1) hs, by omega, .start⟩
  · obtain rfl : k = m := by omega
    exact ⟨hb, hs.le, fun _ => hs, fun h0 => by omega⟩

theorem probeCourse_kept (s₀ : State) (a : Addr7) (m : BitVec 8) :
    (probeCourse s₀ a m.toNat).Kept (.probe a m) where
  moves {s t} hm hb := by
    refine ⟨hb.moves hm, fun h => h.moves hm, ?_⟩
    simp only [probeCourse, hm.starts, hm.observations, hm.ready]
    exact ⟨fun _ _ => id, id⟩
  enter {s} _ hb hf := by
    obtain ⟨hs, ho⟩ := hf
    rw [enter]; unfold callProbe; split
    · rename_i h0
      exact ⟨hb, by rw [h0]; exact hs.le, fun _ => by rw [h0]; exact hs, fun _ => ⟨rfl, ho⟩⟩
    · exact ⟨hb, rfl, rfl, 1, by omega, congrArg (· + 1) hs, Nat.one_pos, .start⟩
  observe _ hb hp := ⟨hb, hp, hp⟩
  resume {_ _ res} _ hb hp := by
    obtain ⟨k, hk, hs, hpos, hp⟩ := hp
    cases hp with
    | start =>
      cases res
      · exact probeCourse_next _ hb hk hs hpos
      · exact ⟨hb, rfl, rfl, k, hk, hs, hpos, .address⟩
    | address =>
      rw [resume]; unfold afterQ5; split
      · exact ⟨hb, rfl, rfl, k, hk, hs, hpos, .stop _⟩
      · split
        · exact ⟨hb, rfl, rfl, k, hk, hs, hpos, .stop _⟩
        · exact ⟨hb, rfl, rfl, k, hk, hs, hpos, .stop _⟩
    | stop acked =>
      cases acked
      · exact probeCourse_next _ hb hk hs hpos
      · exact ⟨hb, hs.le.trans (by omega), Bool.noConfusion, fun h0 => by omega⟩

/-! ## The commands on any bus -/

/-- `START`, `STOP`, and `WRITE` with its bytes set. -/
theorem exec_sends {s : State} {i : Instr} (hs : Accepts s)
    (hi : (i = .start ∨ i = .stop) ∨ ∃ a n, i = .write a n ∧ n.toNat ≤ 32 ∧ TxReady s n.toNat) :
    ∃ t, exec i s = .next t ∧ Sys2Proof.Claims.Ended i s t ∧ SendFrame s t ∧
      (i = .start ∨ i = .stop → t.outcome ≠ .addressNack) := by
  have hlatched := sendFrame_latched (encode i) (.entry i) hs.2
  rcases hi with hi | ⟨a, n, rfl, hn, htx⟩
  · have hw : i.wf = true := by rcases hi with rfl | rfl <;> rfl
    obtain ⟨t, ht, hframe, hend⟩ := (bareCourse_kept s hi).exec hw hs hlatched trivial
    obtain ⟨hended, hout⟩ := hend hframe.1.2.2
    exact ⟨t, ht, hended, hframe, fun _ => hout⟩
  · obtain ⟨t, ht, hframe, hend⟩ :=
      (writeCourse_kept a n htx).exec (decide_eq_true hn) hs hlatched trivial
    exact ⟨t, ht, (hend hframe.1.2.2).1, hframe, by rintro (h | h) <;> cases h⟩

theorem exec_probe {s : State} (hs : Accepts s) (a : Addr7) (m : BitVec 8) :
    ∃ t, exec (.probe a m) s = .next t ∧ Sys2Proof.Claims.Ended (.probe a m) s t ∧ ProbeFrame s t ∧
      (probeCourse s a m.toNat).ended t := by
  obtain ⟨t, ht, hframe, hend⟩ := (probeCourse_kept s a m).exec rfl hs
    (probeFrame_latched _ _ hs.2) (nothingCounted_latched ..)
  obtain ⟨hended, hcount⟩ := hend hframe.1.2.2
  exact ⟨t, ht, hended, hframe, hcount⟩

/-- Settles O15: each command by its course. -/
theorem transportCommandsComplete : Obligations.TransportCommandsComplete := by
  unfold Obligations.TransportCommandsComplete
  intro s i hs hi
  by_cases hprobe : ∃ a m, i = .probe a m
  · obtain ⟨a, m, rfl⟩ := hprobe
    obtain ⟨t, ht, hend, ⟨⟨hdata, hdraws, -⟩, hmem, hout⟩, -⟩ := exec_probe hs a m
    exact ⟨t, ht, hend, hdata, fun _ => by rw [hmem], hdraws, fun _ => hout,
      fun hnot => absurd ⟨a, m, rfl⟩ hnot, by rintro (h | h) <;> cases h⟩
  · have hsends : (i = .start ∨ i = .stop) ∨
        ∃ a n, i = .write a n ∧ n.toNat ≤ 32 ∧ TxReady s n.toNat := by
      rcases hi with hi | hi | hi | hi
      · exact .inl (.inl hi)
      · exact .inl (.inr hi)
      · exact absurd hi hprobe
      · exact .inr hi
    obtain ⟨t, ht, hend, ⟨⟨hdata, hdraws, -⟩, hmem, hready⟩, hout⟩ := exec_sends hs hsends
    exact ⟨t, ht, hend, hdata, fun _ => by rw [hmem], hdraws, fun hp => absurd hp hprobe,
      fun _ => hready, hout⟩

/-- Settles O21. -/
theorem probeAttemptsBounded : Obligations.ProbeAttemptsBounded := by
  unfold Obligations.ProbeAttemptsBounded
  intro s a m hs
  obtain ⟨t, ht, hend, -, hle, heq, hzero⟩ := exec_probe hs a m
  exact ⟨t, ht, hend.1, hle, fun hr _ => heq hr, fun h0 => hzero (by rw [h0]; rfl)⟩

/-! ## `READ` on any bus (R153) -/

/-- The polls of a `read(a, n)` (R153); awaiting byte `i`, the bytes before it are stored and ACK is on
exactly when it is not the last (R158). -/
inductive ReadPoll (a : Addr7) (n : Nat) (s : State) : Point → Prop where
  | start : ReadPoll a n s (.rd2 a n)
  | address : ReadPoll a n s (.rd5 a n)
  | byte {i : Nat} (hi : i < n) (hack : s.bus.cr.ack = decide (i + 1 < n))
      (hset : ∀ j, j < i → (s.rxByte j).isSome = true) : ReadPoll a n s (.rd11 a n i)
  | stop {o : TxOutcome} (ho : o ≠ .success) : ReadPoll a n s (.rdStop o)

/-- The frame of `READ`: nothing but `RXBUF[0..n-1]` is stored. -/
def ReadFrame (s₀ : State) (n : Nat) (s : State) : Prop :=
  Untouched s₀ s ∧ s.ready = s₀.ready ∧
    ∀ x, ¬(rxBase ≤ x ∧ x < rxBase + n) → memGet s.mem x = memGet s₀.mem x

theorem ReadFrame.moves {s₀ s t : State} {n : Nat} (h : ReadFrame s₀ n s) (hm : BusMoves s t) :
    ReadFrame s₀ n t := by
  obtain ⟨hu, hready, hmem⟩ := h
  exact ⟨hu.moves hm, hm.ready.trans hready, by rwa [hm.mem]⟩

theorem readFrame_latched {s : State} (n : Nat) (w : Word) (q : Seq) (hf : s.fault = none) :
    ReadFrame s n (s.latched w q) := ⟨untouched_latched w q hf, rfl, fun _ _ => rfl⟩

theorem ReadPoll.of_same {s t : State} {a : Addr7} {n : Nat} {pt : Point} (h : ReadPoll a n s pt)
    (hack : t.bus.cr.ack = s.bus.cr.ack) (hmem : t.mem = s.mem) : ReadPoll a n t pt := by
  cases h with
  | start => exact .start
  | address => exact .address
  | byte hi ha hset =>
    exact .byte hi (hack.trans ha) fun j hj => (rxByte_of_mem hmem j).symm ▸ hset j hj
  | stop ho => exact .stop ho

/-- `READ a, n` on any bus. -/
def readCourse (s₀ : State) (a : Addr7) (n : Nat) : Course where
  base := ReadFrame s₀ n
  first := NothingCounted s₀
  poll pt _ s := n ≠ 0 ∧ ReadPoll a n s pt
  ended s := (n = 0 → s.outcome = .success ∧ s.tally.starts = s₀.tally.starts ∧
      s.tally.observations = s₀.tally.observations) ∧
    (n ≠ 0 → s.outcome = .success →
      s.bus.cr.ack = false ∧ ∀ j, j < n → (s.rxByte j).isSome = true)

/-- Taking byte `i` stores it, and nothing outside `RXBUF[0..n-1]`. -/
theorem ReadFrame.takeByte {s₀ s : State} {n i : Nat} (h : ReadFrame s₀ n s) (hi : i < n) :
    ReadFrame s₀ n (takeByte n i s) := by
  obtain ⟨hu, hready, hmem⟩ := h
  rw [takeByte_eq]
  exact ⟨hu, hready, fun x hx => (memGet_put_other s.mem _ (by omega)).trans (hmem x hx)⟩

theorem isSome_takeByte {s : State} {n i : Nat} (hi : i < 32)
    (h : ∀ j, j < i → (s.rxByte j).isSome = true) {j : Nat} (hj : j < i + 1) :
    ((takeByte n i s).rxByte j).isSome = true := by
  by_cases hji : j = i
  · rw [hji, (takeByte_reads s n hi).1]; rfl
  · rw [takeByte_rxByte_other n s hji]; exact h j (by omega)

theorem readCourse_kept (s₀ : State) (a : Addr7) {n : BitVec 8} (hn : n.toNat ≤ 32) :
    (readCourse s₀ a n.toNat).Kept (.read a n) where
  moves {s t} hm hb := by
    refine ⟨hb.moves hm, fun h => h.moves hm, fun pt _ h => ⟨h.1, h.2.of_same hm.ack hm.mem⟩,
      fun h => ?_⟩
    simpa only [readCourse, hm.starts, hm.observations, hm.outcome, hm.ack, State.rxByte, hm.mem]
      using h
  enter {s} _ hb hf := by
    rw [enter]; split
    · rename_i h0
      have h0 : n.toNat = 0 := by rw [h0]; rfl
      exact ⟨hb, fun _ => ⟨rfl, hf⟩, fun hne => absurd h0 hne⟩
    · rename_i h0
      exact ⟨hb, rfl, rfl, fun h => h0 (BitVec.eq_of_toNat_eq h), .start⟩
  observe _ hb hp := ⟨hb, ⟨hp.1, hp.2.of_same rfl rfl⟩, hp.1, hp.2.of_same rfl rfl⟩
  resume {s _ res} _ hb hp := by
    obtain ⟨hne, hp⟩ := hp
    have hstop : ∀ o f, o ≠ .success → (readCourse s₀ a n.toNat).Holds (.read a n)
        (callStop (.read a n) .top (.rdStop o) (s.onBus f)) :=
      fun _ _ ho => ⟨hb, rfl, rfl, hne, .stop ho⟩
    cases hp with
    | start =>
      cases res
      · exact hstop _ id (by decide)
      · exact ⟨hb, rfl, rfl, hne, .address⟩
    | address =>
      rw [resume]; unfold afterRd5; split
      · exact hstop _ id (by decide)
      · split
        · exact hstop _ _ (by decide)
        · exact ⟨hb, rfl, rfl, hne, .byte (Nat.pos_of_ne_zero hne)
            (armReceive_ack (Nat.pos_of_ne_zero hne) _) fun j hj => absurd hj (Nat.not_lt_zero j)⟩
    | @byte i hi hack hset =>
      have htake := ReadFrame.takeByte hb hi
      have hall := fun j => isSome_takeByte (s := s) (n := n.toNat) (j := j)
        (by omega) hset
      cases res
      · exact hstop _ id (by decide)
      · rw [resume]; simp only [afterRd11]; split
        · rename_i hnext
          exact ⟨htake, rfl, rfl, hne, .byte hnext (takeByte_ack_next hnext hack) hall⟩
        · rename_i hlast
          refine ⟨htake, fun h0 => absurd h0 hne, fun _ _ => ⟨?_, fun j hj => hall j (by omega)⟩⟩
          exact (takeByte_ack_last s hlast).trans (hack.trans (decide_eq_false hlast))
    | stop ho => exact ⟨hb, fun h0 => absurd h0 hne, fun _ hs => absurd hs ho⟩

/-- Settles O16. -/
theorem readCompletes : Obligations.ReadCompletes := by
  unfold Obligations.ReadCompletes
  intro s a n hs hn
  obtain ⟨t, ht, ⟨⟨hdata, hdraws, hfault⟩, hready, hmem⟩, hend⟩ := (readCourse_kept s a hn).exec
    (decide_eq_true hn) hs (readFrame_latched _ _ _ hs.2) (nothingCounted_latched ..)
  obtain ⟨hended, hzero, hpos⟩ := hend hfault
  exact ⟨t, ht, hended, hdata, hready, hdraws, hmem, fun h0 => hzero (by rw [h0]; rfl),
    fun hne => hpos fun h => hne (BitVec.eq_of_toNat_eq h)⟩

end Sys2Proof.Machine
end

section
/-! SUPPORT. The transport family: a transfer that ends has requested a STOP, and fails on a sticky `AF`
(40_bus R157, R159; O19, O20). -/

namespace Sys2Proof.Machine

/-- A `WRITE` sets out on a course that an unset byte, which stops the command where it is (R266), does
not take it from. -/
theorem Course.holds_callWrite {A : Course} {a : Addr7} {n : BitVec 8} {s : State}
    (hq : s.seq = .entry (.write a n)) (hr : ∀ j, A.base (raiseFault .unset (txInfo j) s) ∧
      A.first (raiseFault .unset (txInfo j) s))
    (hs : A.Holds (.write a n) (callStart (.write a n) .top (.w1 a n.toNat) s)) :
    A.Holds (.write a n) (enter (.write a n) s) := by
  rw [enter]; unfold callWrite; split
  · rename_i j _
    refine ⟨(hr j).1, ?_⟩
    rw [show (raiseFault .unset (txInfo j) s).seq = _ from hq]
    exact ⟨rfl, (hr j).2⟩
  · exact hs

/-! ## The STOP of a transfer (R157) -/

/-- The wire has only grown since `s₀`. -/
def WireGrown (s₀ s : State) : Prop := ∃ l, s.wire = l ++ s₀.wire

/-- A STOP is requested, or has been made since `s₀`. -/
def StopRequested (s₀ s : State) : Prop :=
  s.bus.cr.stop = true ∨ ∃ l, s.wire = l ++ s₀.wire ∧ WireEvent.stop ∈ l

theorem WireGrown.moves {s₀ s t : State} (h : WireGrown s₀ s) (hm : BusMoves s t) :
    WireGrown s₀ t := by
  obtain ⟨l, hl⟩ := h
  obtain ⟨k, hk, -⟩ := hm.wire
  exact ⟨k ++ l, by rw [hk, hl, List.append_assoc]⟩

theorem StopRequested.moves {s₀ s t : State} (h : StopRequested s₀ s) (hw : WireGrown s₀ s)
    (hm : BusMoves s t) : StopRequested s₀ t := by
  obtain ⟨k, hk, hstop⟩ := hm.wire
  rcases h with h | ⟨l, hl, hmem⟩
  · obtain ⟨l, hl⟩ := hw
    refine (hstop h).imp_right fun hmem => ⟨k ++ l, by rw [hk, hl, List.append_assoc], ?_⟩
    exact List.mem_append_left l hmem
  · exact .inr ⟨k ++ l, by rw [hk, hl, List.append_assoc], List.mem_append_right k hmem⟩

/-- What is known of the STOP at each poll of a transfer: it is due from the last byte of a read on. -/
def stopPoll (s₀ s : State) : Point → Prop
  | .w1 _ _ => True
  | .w4 _ _ => True
  | .w10 _ _ _ => True
  | .wStop _ => StopRequested s₀ s
  | .rd2 _ n => 0 < n
  | .rd5 _ n => 0 < n
  | .rd11 _ n i => i < n ∧ (i + 1 = n → StopRequested s₀ s)
  | .rdStop _ => StopRequested s₀ s
  | _ => False

theorem stopPoll_moves {s₀ s t : State} (hw : WireGrown s₀ s) (hm : BusMoves s t) (pt : Point)
    (h : stopPoll s₀ s pt) : stopPoll s₀ t pt := by
  cases pt
  case wStop | rdStop => exact StopRequested.moves h hw hm
  case rd11 => exact ⟨h.1, fun hi => (h.2 hi).moves hw hm⟩
  all_goals exact h

/-- A transfer and its STOP. -/
def stopCourse (s₀ : State) : Course where
  base := WireGrown s₀
  first _ := True
  poll pt _ s := stopPoll s₀ s pt
  ended := StopRequested s₀

theorem stopCourse_stopWrite {s₀ s : State} (c : Instr) (o : TxOutcome) (hb : WireGrown s₀ s) :
    (stopCourse s₀).Holds c (callStop c .top (.wStop o) s) := ⟨hb, rfl, rfl, .inl rfl⟩

theorem stopCourse_stopRead {s₀ s : State} (c : Instr) (o : TxOutcome) (hb : WireGrown s₀ s) :
    (stopCourse s₀).Holds c (callStop c .top (.rdStop o) s) := ⟨hb, rfl, rfl, .inl rfl⟩

/-- The next byte of a `write`, or its STOP; an unset byte stops the command where it is. -/
theorem stopCourse_sendByte {s₀ s : State} {c : Instr} {pt : Point} {res : Option Obs} (a : Addr7)
    (n i : Nat) (hq : s.seq = .polled c .top pt res) (hb : WireGrown s₀ s)
    (hp : ∀ u, stopPoll s₀ u pt) :
    (stopCourse s₀).Holds c (sendByte c .top a n i s) := by
  unfold sendByte; split
  · split
    · exact ⟨hb, rfl, rfl, trivial⟩
    · refine ⟨hb, ?_⟩
      rw [show (raiseFault .unset (txInfo i) s).seq = _ from hq]
      exact ⟨rfl, rfl, hp _⟩
  · exact stopCourse_stopWrite c _ hb

/-- RD14 requests the STOP after the second-to-last byte and leaves it alone after any other. -/
theorem takeByte_stop (n i : Nat) (s : State) :
    (takeByte n i s).bus.cr.stop = if i + 2 = n then true else s.bus.cr.stop := by
  unfold takeByte; dsimp only; split <;> rfl

theorem takeByte_wire (n i : Nat) (s : State) : (takeByte n i s).wire = s.wire := by
  rw [takeByte_eq]; rfl

/-- Taking a byte leaves a requested STOP requested. -/
theorem StopRequested.takeByte {s₀ s : State} (n i : Nat) (h : StopRequested s₀ s) :
    StopRequested s₀ (takeByte n i s) := by
  unfold StopRequested at *
  rw [takeByte_stop, takeByte_wire]
  refine h.imp_left fun h => ?_
  rw [h]; exact ite_self _

/-- RD9 requests the STOP of a read of one byte (R158). -/
theorem armReceive_stop (p : Periph) : (armReceive 1 p).cr.stop = true := rfl

theorem stopCourse_kept (s₀ : State) {c : Instr}
    (hc : ∃ a n, n.toNat ≤ 32 ∧ (c = .write a n ∨ (c = .read a n ∧ n ≠ 0))) :
    (stopCourse s₀).Kept c where
  moves hm hb := ⟨hb.moves hm, id, fun pt _ h => stopPoll_moves hb hm pt h, fun h => h.moves hb hm⟩
  enter {s} hq hb hf := by
    obtain ⟨a, n, -, rfl | ⟨rfl, hn⟩⟩ := hc
    · exact Course.holds_callWrite hq (fun _ => ⟨hb, trivial⟩) ⟨hb, rfl, rfl, trivial⟩
    · rw [enter, if_neg hn]
      exact ⟨hb, rfl, rfl, Nat.pos_of_ne_zero fun h => hn (BitVec.eq_of_toNat_eq h)⟩
  observe {s pt} q hb hp := by
    have hp' : stopPoll s₀ (s.countObservation.setSeq q) pt := by cases pt <;> exact hp
    exact ⟨hb, hp', hp'⟩
  resume {s pt res} hq hb hp := by
    cases pt <;> rw [resume]
    case w1 =>
      cases res
      · exact stopCourse_stopWrite c _ hb
      · exact ⟨hb, rfl, rfl, trivial⟩
    case w4 a n =>
      unfold afterW4; split
      · exact stopCourse_stopWrite c _ hb
      · split
        · exact stopCourse_stopWrite c _ hb
        · exact stopCourse_sendByte a n 0 hq hb fun _ => trivial
    case w10 a n i =>
      cases res
      · exact stopCourse_stopWrite c _ hb
      · exact stopCourse_sendByte a n (i + 1) hq hb fun _ => trivial
    case wStop => exact ⟨hb, hp⟩
    case rd2 a n =>
      cases res
      · exact stopCourse_stopRead c _ hb
      · exact ⟨hb, rfl, rfl, hp⟩
    case rd5 a n =>
      unfold afterRd5; split
      · exact stopCourse_stopRead c _ hb
      · split
        · exact stopCourse_stopRead c _ hb
        · refine ⟨hb, rfl, rfl, hp, fun hlast => .inl ?_⟩
          rw [← hlast]; exact armReceive_stop s.bus
    case rd11 a n i =>
      obtain ⟨hi, hstop⟩ := hp
      have hgrown : WireGrown s₀ (takeByte n i s) := by
        unfold WireGrown; rwa [takeByte_wire]
      cases res
      · exact stopCourse_stopRead c _ hb
      · simp only [afterRd11]; split
        · refine ⟨hgrown, rfl, rfl, ‹_›, fun hlast => .inl ?_⟩
          exact (takeByte_stop n i s).trans (if_pos hlast)
        · exact ⟨hgrown, (hstop (by omega)).takeByte n i⟩
    case rdStop => exact ⟨hb, hp⟩
    all_goals exact hp.elim

theorem wireGrown_latched (s : State) (w : Word) (q : Seq) : WireGrown s (s.latched w q) := ⟨[], rfl⟩

/-- A transfer is a well-formed command. -/
theorem wf_of_transfer {i : Instr}
    (h : ∃ a n, n.toNat ≤ 32 ∧ (i = .write a n ∨ (i = .read a n ∧ n ≠ 0))) : i.wf = true := by
  obtain ⟨a, n, hn, rfl | ⟨rfl, -⟩⟩ := h
  · exact decide_eq_true hn
  · exact decide_eq_true hn

/-- Settles O19. -/
theorem transferEndsWithStopRequested : Obligations.TransferEndsWithStopRequested := by
  unfold Obligations.TransferEndsWithStopRequested
  intro s t i hs ht hi hexec
  obtain ⟨u, hu, -, hend⟩ :=
    (stopCourse_kept s hi).exec (wf_of_transfer hi) hs (wireGrown_latched ..) trivial
  cases hexec.symm.trans hu
  exact (hend ht.2).2

/-! ## A sticky `AF` (R159) -/

/-- What is known of a transfer begun with `AF` set: its address poll sees `AF`. -/
def afPoll (s : State) (res : Option Obs) : Point → Prop
  | .w1 _ _ => s.bus.sr1.af = true
  | .w4 _ _ => s.bus.sr1.af = true ∧ ∀ obs, res = some obs → obs.sr1.af = true
  | .wStop o => o ≠ .success
  | .rd2 _ _ => s.bus.sr1.af = true
  | .rd5 _ _ => s.bus.sr1.af = true ∧ ∀ obs, res = some obs → obs.sr1.af = true
  | .rdStop o => o ≠ .success
  | _ => False

/-- A transfer begun with `AF` set. -/
def afCourse : Course where
  base _ := True
  first s := s.bus.sr1.af = true
  poll pt res s := afPoll s res pt
  ended s := s.outcome ≠ .success

theorem afPoll_moves {s t : State} (hm : BusMoves s t) (pt : Point) (res : Option Obs)
    (h : afPoll s res pt) : afPoll t res pt := by
  cases pt
  case w1 | rd2 => exact hm.af h
  case w4 | rd5 => exact ⟨hm.af h.1, h.2⟩
  all_goals exact h

/-- After the address byte `AF` is as it was (R44). -/
theorem af_writeDR {p : Periph} (b : Byte) (h : p.sr1.af = true) : (p.writeDR b).sr1.af = true :=
  (writeDR_flags p b).2.2.trans h

theorem afCourse_kept {c : Instr}
    (hc : ∃ a n, n.toNat ≤ 32 ∧ (c = .write a n ∨ (c = .read a n ∧ n ≠ 0))) : afCourse.Kept c where
  moves hm _ := ⟨trivial, hm.af, fun pt res => afPoll_moves hm pt res, fun h => hm.outcome.trans_ne h⟩
  enter {s} hq _ hf := by
    obtain ⟨a, n, -, rfl | ⟨rfl, hn⟩⟩ := hc
    · exact Course.holds_callWrite hq (fun _ => ⟨trivial, hf⟩) ⟨trivial, rfl, rfl, hf⟩
    · rw [enter, if_neg hn]
      exact ⟨trivial, rfl, rfl, hf⟩
  observe {s pt} q _ hp := by
    refine ⟨trivial, by cases pt <;> exact hp, ?_⟩
    cases pt
    case w4 | rd5 => exact ⟨hp.1, fun obs ho => by cases ho; exact hp.1⟩
    all_goals exact hp
  resume {s pt res} _ _ hp := by
    have hno : ∀ a, (TxOutcome.addressNack = a ∨ TxOutcome.timeout = a) → a ≠ .success := by
      rintro _ (rfl | rfl) <;> exact TxOutcome.noConfusion
    cases pt <;> rw [resume]
    case w1 | rd2 =>
      cases res
      · exact ⟨trivial, rfl, rfl, hno _ (.inr rfl)⟩
      · exact ⟨trivial, rfl, rfl, af_writeDR _ hp, fun _ ho => (Option.some_ne_none _ ho.symm).elim⟩
    case w4 | rd5 =>
      obtain ⟨-, hp⟩ := hp
      cases res with
      | none => exact ⟨trivial, rfl, rfl, hno _ (.inr rfl)⟩
      | some obs =>
        simp only [afterW4, afterRd5, hp obs rfl, if_true]
        exact ⟨trivial, rfl, rfl, hno _ (.inl rfl)⟩
    case wStop | rdStop => exact ⟨trivial, hp⟩
    all_goals exact hp.elim

theorem af_latched {s : State} (w : Word) (q : Seq) (h : s.bus.sr1.af = true) :
    (s.latched w q).bus.sr1.af = true := h

/-- A transfer begun with `AF` set that ends does not succeed. -/
theorem exec_sticky {s t : State} {i : Instr} (hs : Accepts s) (haf : s.bus.sr1.af = true)
    (hi : ∃ a n, n.toNat ≤ 32 ∧ (i = .write a n ∨ (i = .read a n ∧ n ≠ 0)))
    (hexec : exec i s = .next t) (ht : t.fault = none) : t.outcome ≠ .success := by
  obtain ⟨u, hu, -, hend⟩ :=
    (afCourse_kept hi).exec (wf_of_transfer hi) hs trivial (af_latched _ _ haf)
  cases hexec.symm.trans hu
  exact (hend ht).2

/-- Settles O20: both transfers end (O15, O16), and no transfer with `AF` set succeeds. -/
theorem stickyAfFailsTransfers : Obligations.StickyAfFailsTransfers := by
  unfold Obligations.StickyAfFailsTransfers
  intro s a n hs haf hn
  constructor
  · intro htx
    obtain ⟨t, ht, hend, -⟩ := exec_sends hs (.inr ⟨a, n, rfl, hn, htx⟩)
    exact ⟨t, ht, hend.1, exec_sticky hs haf ⟨a, n, hn, .inl rfl⟩ ht hend.1.2⟩
  · intro hne
    obtain ⟨t, ht, hend, -⟩ := readCompletes s a n hs hn
    exact ⟨t, ht, hend.1, exec_sticky hs haf ⟨a, n, hn, .inr ⟨rfl, hne⟩⟩ ht hend.1.2⟩

end Sys2Proof.Machine
end

section
/-! SUPPORT. The transport family: the commands of the reference device's own address (40_bus R148; O23,
O25, O27). -/

namespace Sys2Proof.Machine

section
variable {d : RefDevice} {s : State}

/-! ## A read -/

/-- The device stays served while nothing it looks at changes. -/
theorem Served.of_same {t : State} {ph : Phase} {sb addr rxne : Bool} (h : Served d ph sb addr rxne s)
    (hf : t.fault = s.fault) (ha : t.agenda = s.agenda) (hd : t.busAgent = s.busAgent)
    (hb : t.bus = s.bus) : Served d ph sb addr rxne t :=
  ⟨⟨hf.trans h.fault, ha.trans h.agenda, hd.trans h.agent⟩, hb ▸ h.bus, h.quiet⟩

/-- The end of a transport command leaves the bus as it is. -/
theorem Served.returned {ph : Phase} {sb addr rxne : Bool} (h : Served d ph sb addr rxne s)
    (o : TxOutcome) : Served d ph sb addr rxne (endCmd (s.setOutcome o)) :=
  h.of_same rfl rfl rfl rfl

/-- Settles O23. -/
theorem referenceReadDelivers : Obligations.ReferenceReadDelivers := by
  unfold Obligations.ReferenceReadDelivers
  intro s d n h hn hn32
  have hpos : n.toNat ≠ 0 := fun h0 => hn (BitVec.eq_of_toNat_eq h0)
  obtain ⟨u, hl, hu, -, hrx⟩ := (h.served.latched (encode (.read Config.devAddr n))
    (.entry (.read Config.devAddr n))).countSeqStep.leadsTo_returnRead
    (c := .read Config.devAddr n) (r := .top) hpos hn32
  have hret : returnRead (.read Config.devAddr n) .top .success u =
      endCmd (u.setOutcome .success) := rfl
  rw [hret, (hu.returned .success).answered_eq] at hl
  have henter : ∀ v, enter (.read Config.devAddr n) v =
      callRead (.read Config.devAddr n) .top Config.devAddr n.toNat v := fun _ => if_neg hn
  rw [← henter] at hl
  refine ⟨_, h.exec_eq (decide_eq_true hn32) hl ⟨rfl, hu.fault⟩, ⟨rfl, hu.fault⟩, rfl,
    hrx, _, hu.agent, ?_, rfl⟩
  simp

/-! ## A register write (41_sensor R201) -/

/-- A register the device lets be written takes the byte. -/
theorem taken_regWrite (q : Params) (d : RefDevice) {r : Byte} (v : Byte)
    (hr : r = q.regCtrlMeas ∨ r = q.regConfig) :
    ({ d with wcnt := 0 } : RefDevice).taken q [r, v] =
      { d.setReg r v with ptr := r + 1, wcnt := 2 } := by
  simp [RefDevice.taken, RefDevice.after, hr, RefDevice.setReg]

/-- A line of a sensor command that writes a register the device lets be written succeeds. -/
theorem Served.leadsTo_regWrite (h : Served d .idle false false false s) {c : Instr} {ret : Ret}
    {r : Byte} (v : Byte) (hr : r = s.params.regCtrlMeas ∨ r = s.params.regConfig) :
    ∃ u, LeadsTo 5 (answered (callRegWrite c ret r v s)) (answered (returnWrite c ret .success u)) ∧
      Served { d.setReg r v with ptr := r + 1, wcnt := 2 } .idle false false false u ∧
      TransferOnly s u := by
  have hput : Served d .idle false false false ((s.putTx 0 r).putTx 1 v) := h.of_same rfl rfl rfl rfl
  have hbyte : ∀ j (hj : j < [r, v].length), ((s.putTx 0 r).putTx 1 v).txByte j = some [r, v][j] := by
    intro j hj
    match j, hj with
    | 0, _ =>
      have hfirst : memGet (s.putTx 0 r).mem (txBase + 0) = some r :=
        memGet_put_same (a := txBase) s.mem r (by decide)
      exact (memGet_put_other _ v (by decide : txBase + 0 ≠ txBase + 1)).trans hfirst
    | 1, _ => exact memGet_put_same (a := txBase + 1) _ v (by decide)
  obtain ⟨u, hl, hu, hcore⟩ := hput.leadsTo_returnWrite (c := c) (r := ret) hbyte
  have hparams : ((s.putTx 0 r).putTx 1 v).params = s.params := rfl
  rw [hparams, taken_regWrite _ _ _ hr] at hu
  exact ⟨u, hl, hu, TransferOnly.trans (t := (s.putTx 0 r).putTx 1 v) rfl hcore⟩

theorem TransferOnly.ready {t : State} (h : TransferOnly s t) : t.ready = s.ready := by rw [h]

/-- `CONFIGURE`, and `INIT` from I8 on: both registers are written, and the command ends (R204). -/
theorem Served.leadsTo_configure (h : Served d .idle false false false s) (c : Instr)
    (hne : s.params.regCtrlMeas ≠ s.params.regConfig) :
    ∃ (u : State) (d' : RefDevice),
      LeadsTo 10 (answered (beginConfigure c s)) (endCmd (u.setOutcome .success)) ∧
      u.fault = none ∧ u.data = s.data ∧ u.ready = s.ready ∧ u.busAgent = .reference d' ∧
      d'.reg s.params.regCtrlMeas = 0x27 ∧ d'.reg s.params.regConfig = 0xA0 := by
  obtain ⟨v, hlv, hv, hcorev⟩ :=
    h.leadsTo_regWrite (c := c) (ret := .g1) Config.ctrlMeasVal (.inl rfl)
  have hret : returnWrite c .g1 .success v =
      callRegWrite c .g2 v.params.regConfig Config.configVal (v.setOutcome .success) := rfl
  have hv' := hv.of_same (t := v.setOutcome .success) rfl rfl rfl rfl
  obtain ⟨u, hlu, hu, hcoreu⟩ := hv'.leadsTo_regWrite (c := c) (ret := .g2)
    (r := v.params.regConfig) Config.configVal (.inr rfl)
  have hend : returnWrite c .g2 .success u = endCmd (u.setOutcome .success) := rfl
  rw [hend, (hu.returned .success).answered_eq] at hlu
  rw [hret] at hlv
  have hcore : TransferOnly (s.setOutcome .success) u := (hcorev.setOutcome .success).trans hcoreu
  have hparams : v.params = s.params := hcorev.params
  have hctrl : (d.setReg s.params.regCtrlMeas Config.ctrlMeasVal).reg s.params.regCtrlMeas = 0x27 :=
    RefDevice.reg_setReg_same _ _ _ (by decide)
  have hother := (RefDevice.reg_setReg_other { d.setReg s.params.regCtrlMeas Config.ctrlMeasVal with
    ptr := s.params.regCtrlMeas + 1, wcnt := 2 } Config.configVal (by decide) hne).trans hctrl
  refine ⟨u, _, hlv.trans hlu, hu.fault, hcore.data, hcore.ready, hu.agent, ?_, ?_⟩
  · rw [hparams]; exact hother
  · rw [hparams]; exact RefDevice.reg_setReg_same _ _ Config.configVal (by decide)

/-- What a command finds on its first step is what the host left. -/
theorem firstStep_params (s : State) (w : Word) (q : Seq) :
    (s.latched w q).countSeqStep.params = s.params := rfl
theorem firstStep_data (s : State) (w : Word) (q : Seq) :
    (s.latched w q).countSeqStep.data = s.data := rfl

/-- Settles O25. -/
theorem referenceConfigure : Obligations.ReferenceConfigure := by
  unfold Obligations.ReferenceConfigure
  intro s d h hne
  have hfirst := (h.served.latched (encode .configure) (.entry .configure)).countSeqStep
  rw [← firstStep_params s (encode .configure) (.entry .configure)] at hne ⊢
  obtain ⟨u, d', hl, hf, hdata, -, hagent, hctrl, hconf⟩ := hfirst.leadsTo_configure .configure hne
  rw [firstStep_data] at hdata
  exact ⟨_, d', h.exec_eq rfl hl ⟨rfl, hf⟩, ⟨rfl, hf⟩, rfl, hdata, hagent, hctrl, hconf⟩

/-! ## `INIT` (R210) -/

/-- A probe of the device's own address is acknowledged in its first attempt (R154). -/
theorem Served.leadsTo_probed (h : Served d .idle false false false s) {c : Instr} {r : Ret}
    (m : Nat) :
    ∃ u, LeadsTo 3 (answered (probeAttempt c r Config.devAddr m 1 s))
        (answered (returnProbe c r true u)) ∧
      Served { d with wcnt := 0 } .idle false false false u ∧ TransferOnly s u := by
  obtain ⟨t, hlt, haddr, hawaits⟩ := h.leadsTo_address (c := c) (r := r) (rw := false)
    (pt := .q2 Config.devAddr m 1) (pt' := .q5 Config.devAddr m 1) (fun _ => rfl) (fun _ _ => rfl)
  obtain ⟨v, hlv, hv, hcore, -, -⟩ := haddr.leadsTo_resume hawaits.seq
    (by simp [Point.cond, Periph.observe, haddr.bus.addr])
  have hack : resume c r (.q5 Config.devAddr m 1) (some t.bus.observe) v =
      Machine.callStop c r (.qStop Config.devAddr m 1 true) (v.onBus Periph.clearStatus) := by
    simp [resume, afterQ5, Periph.observe, haddr.bus.addr]
  obtain ⟨w, hw, hidle, hawaits'⟩ := hv.clearStatus.callStop c r (.qStop Config.devAddr m 1 true)
  rw [hack, hw] at hlv
  obtain ⟨u, hlu, hu, hcoreu, -, -⟩ := hidle.leadsTo_resume hawaits'.seq
    (by simp [Point.cond, Periph.observe, hidle.bus.stop])
  have hon : TransferOnly v (v.onBus Periph.clearStatus) := rfl
  exact ⟨u, (hlt.trans hlv).trans hlu, hu,
    (hawaits.core.trans hcore).trans ((hon.trans hawaits'.core).trans hcoreu)⟩

/-- I4 to I6: the identity byte is recorded, and `READ_CAL` begins (R210). -/
theorem returnRead_identity (h : s.rxVal 0 = Config.chipId) :
    returnRead .init .i3Burst .success s = beginReadCal .init ((s.setOutcome .success).setData
      { s.data with lastId := some Config.chipId }) := by
  have hid : (s.setOutcome .success).rxVal 0 = Config.chipId := h
  simp [returnRead, idDone, idUpdate, hid]

/-- I7 and I8: the calibration is loaded, and `CONFIGURE` begins (R210). -/
theorem returnRead_initCal (s : State) :
    returnRead .init .c1Burst .success s = beginConfigure .init ((s.setOutcome .success).setData
      { s.data with cal := some s.decodeCal, tfineFresh := false }) := rfl

/-- I3 to I6 of `INIT`: the device identifies itself (R210). -/
theorem Served.leadsTo_identified (h : Served d .idle false false false s)
    (hid : d.reg s.params.regId = Config.chipId) :
    ∃ u p, LeadsTo 7 (answered (returnProbe .init .i1 true s)) (answered (beginReadCal .init u)) ∧
      Served { d with ptr := p, wcnt := 0 } .idle false false false u ∧ u.params = s.params ∧
      u.ready = true ∧ u.data = { s.data with lastId := some Config.chipId } := by
  have hready : Served d .idle false false false (s.setReady true) := h.of_same rfl rfl rfl rfl
  obtain ⟨v, hl, hv, hcore, hrx⟩ := hready.leadsTo_regRead (c := .init) (r := .i3Ptr)
    (r' := .i3Burst) s.params.regId (by decide : 1 ≠ 0) (by decide) (fun _ => rfl)
  have hbyte : v.rxVal 0 = Config.chipId := by
    rw [rxVal_of_rxByte (hrx 0 Nat.one_pos), BitVec.add_zero, hid]
  have hdata : v.data = s.data := hcore.data
  rw [returnRead_identity hbyte, hdata] at hl
  exact ⟨_, _, hl, hv.of_same rfl rfl rfl rfl, hcore.params, hcore.ready, rfl⟩

/-- I7 of `INIT`: the calibration is loaded from the device's block (R202, R210). -/
theorem Served.leadsTo_calibrated (h : Served d .idle false false false s) :
    ∃ u p cal, LeadsTo 30 (answered (beginReadCal .init s)) (answered (beginConfigure .init u)) ∧
      Served { d with ptr := p, wcnt := 0 } .idle false false false u ∧ u.params = s.params ∧
      u.ready = s.ready ∧ u.data = { s.data with cal := some cal, tfineFresh := false } ∧
      ∀ k, k < 12 → cal.field k = d.reg (s.params.regCal + BitVec.ofNat 8 (2 * k + 1)) ++
        d.reg (s.params.regCal + BitVec.ofNat 8 (2 * k)) := by
  obtain ⟨v, hl, hv, hcore, hrx⟩ := h.leadsTo_regRead (c := .init) (r := .c1Ptr) (r' := .c1Burst)
    s.params.regCal (by decide : 24 ≠ 0) (by decide) (fun _ => rfl)
  have hdata : v.data = s.data := hcore.data
  rw [returnRead_initCal, hdata] at hl
  refine ⟨_, _, v.decodeCal, hl, hv.of_same rfl rfl rfl rfl, hcore.params, hcore.ready, rfl,
    fun k hk => ?_⟩
  rw [decodeCal_field v hk, State.calField, rxVal_of_rxByte (hrx _ (by omega)),
    rxVal_of_rxByte (hrx _ (by omega))]

/-- Settles O27: the probe, the identity, the calibration and the configuration follow each other. -/
theorem referenceInit : Obligations.ReferenceInit := by
  unfold Obligations.ReferenceInit
  intro s d h hm hid hne
  have hfirst := (h.served.latched (encode .init) (.entry .init)).countSeqStep
  have hparams := firstStep_params s (encode .init) (.entry .init)
  have henter : ∀ v : State, v.params = s.params → enter .init v =
      probeAttempt .init .i1 Config.devAddr s.params.readyAttempts.toNat 1 v := fun v hv => by
    rw [enter, hv]; exact if_neg fun h0 => hm (BitVec.eq_of_toNat_eq h0)
  obtain ⟨v, hlv, hv, hcore⟩ :=
    hfirst.leadsTo_probed (c := .init) (r := .i1) s.params.readyAttempts.toNat
  rw [← henter _ hparams] at hlv
  have hparamsv : v.params = s.params := hcore.params.trans hparams
  obtain ⟨w, _, hlw, hw, hparamsw, hreadyw, hdataw⟩ := hv.leadsTo_identified (hparamsv ▸ hid)
  obtain ⟨x, _, cal, hlx, hx, hparamsx, hreadyx, hdatax, hcal⟩ := hw.leadsTo_calibrated
  have hparamsx := hparamsx.trans (hparamsw.trans hparamsv)
  obtain ⟨u, d', hlu, hf, hdata, hready, hagent, hctrl, hconf⟩ :=
    hx.leadsTo_configure .init (hparamsx ▸ hne)
  rw [hparamsw, hparamsv] at hcal
  rw [hparamsx] at hctrl hconf
  rw [hdatax, hdataw, hcore.data, firstStep_data] at hdata
  have hall := ((hlv.trans hlw).trans hlx).trans hlu
  exact ⟨_, d', cal, h.exec_eq rfl hall ⟨rfl, hf⟩, ⟨rfl, hf⟩, hready.trans (hreadyx.trans hreadyw),
    rfl, hdata, hcal, hagent, hctrl, hconf⟩

end
end Sys2Proof.Machine
end

section
/-! SUPPORT. The transport family: an address the reference device does not answer (40_bus R148, R157;
O28). Each attempt puts a START, the refused address byte and a STOP on the wire. -/

namespace Sys2Proof.Machine

/-! ## The device's turn, with what it puts on the wire -/

/-- `t` is only a transfer away from `s`, with the buffers as they were and `l` put on the wire. -/
structure Sends (l : List WireEvent) (s t : State) : Prop where
  core : TransferOnly s t
  mem : t.mem = s.mem
  wire : t.wire = l ++ s.wire

theorem Sends.trans {k l : List WireEvent} {s t u : State} (h : Sends l s t) (h' : Sends k t u) :
    Sends (k ++ l) s u :=
  ⟨h.core.trans h'.core, h'.mem.trans h.mem, by rw [h'.wire, h.wire, List.append_assoc]⟩

section
variable {d d' : RefDevice} {s : State} {p : Periph}

theorem RefDevice.next_addrNack (d : RefDevice) (hpe : p.cr.pe = true) (hp : p.phase = .addrSent)
    (ht : p.engTarget ≠ Config.devAddr) : d.next p = some .addrNack := by
  simp [RefDevice.next, BusEvent.enabled, Phase.takesStop, Phase.takesStart, hpe, hp, ht]

/-- With no condition requested and no byte in flight the device does nothing. -/
theorem RefDevice.next_none (d : RefDevice) (hstart : p.cr.start = false) (hstop : p.cr.stop = false)
    (hp : p.phase = .idle ∨ p.phase = .awaitAddr ∨ p.phase = .nacked) : d.next p = none := by
  rcases hp with hp | hp | hp <;> simp [RefDevice.next, BusEvent.enabled, hstart, hstop, hp]

/-- The sequencer leaves the peripheral as `p` and begins a poll; the device answers with one event. -/
theorem Serving.answers {e : BusEvent} (h : Serving d s) (c : Instr) (r : Ret) (pt : Point)
    (hp : s.bus = p) (he : d.next p = some e) (hd : d.after s.params p.dr e = d')
    (hnone : d'.next (e.effect p) = none) :
    ∃ t, answered (beginPoll c r pt s) = t ∧ t.bus = e.effect p ∧ Serving d' t ∧
      t.seq = .poll c r pt 0 ∧ Sends [e.wire p] s t := by
  subst hp hd
  have hs : Serving d (beginPoll c r pt s) := ⟨h.fault, h.agenda, h.agent⟩
  have hbus : (d.take e (beginPoll c r pt s)).bus = e.effect s.bus := RefDevice.take_bus he
  have heq : answered (beginPoll c r pt s) = d.take e (beginPoll c r pt s) := by
    rw [hs.answered_eq, eagerFuel, eager_event (s := beginPoll c r pt s) he]
    exact eager_settled (hbus ▸ hnone) _
  have hawaits := awaits_answered c r pt s
  rw [heq] at hawaits
  have hwire : (d.take e (beginPoll c r pt s)).wire = e.wire s.bus :: s.wire :=
    takeEvent_wire (s := beginPoll c r pt s) (RefDevice.enabled_of_next he)
  exact ⟨_, heq, hbus, hs.take e, hawaits.seq, hawaits.core, hawaits.mem, hwire⟩

/-- An observation puts nothing on the wire. -/
theorem sends_observed (s : State) (q : Seq) : Sends [] s (s.observed q).countSeqStep :=
  ⟨transferOnly_observed s q, rfl, rfl⟩

theorem Serving.countSeqStep (h : Serving d s) : Serving d s.countSeqStep :=
  ⟨h.fault, h.agenda, h.agent⟩

theorem Serving.observed (h : Serving d s) (q : Seq) : Serving d (s.observed q) :=
  ⟨h.fault, h.agenda, h.agent⟩

/-- A poll whose condition holds when the device is done ends at its first observation. -/
theorem Serving.leadsTo_polled {c : Instr} {r : Ret} {pt : Point} (h : Serving d s)
    (hnone : d.next s.bus = none) (hq : s.seq = .poll c r pt 0) (hc : pt.cond s.bus.observe = true) :
    ∃ u, LeadsTo 1 s (answered (resume c r pt (some s.bus.observe) u)) ∧ Serving d u ∧
      u.bus = s.bus ∧ Sends [] s u := by
  have hobs : observeStep c r pt 0 s.countSeqStep =
      s.observed (.polled c r pt (some s.bus.observe)) := if_pos hc
  have hmid := h.observed (.polled c r pt (some s.bus.observe))
  have hidle : answered (s.observed (.polled c r pt (some s.bus.observe))) =
      s.observed (.polled c r pt (some s.bus.observe)) :=
    hmid.answered_eq.trans (eager_settled (s := s.observed _) hnone _)
  refine ⟨_, ⟨⟨2, ?_⟩, ?_⟩, hmid.countSeqStep, rfl, sends_observed s _⟩
  · rw [h.runTurns_succ (by simp [State.busy, hq]), seqStep_poll hq, hobs, hidle,
      hmid.runTurns_succ rfl, seqStep_polled rfl]
    rfl
  · rw [(unlessFaulted_busWindow_busOnly _).tally]
    exact congrArg Prod.fst (counts_resume c r pt _ (s.observed _).countSeqStep)

end

/-! ## A refused address -/

/-- The address byte holds its address (20_memory R86). -/
theorem extract_addrByte (a : Addr7) (rw : Bool) : (addrByte a rw).extractLsb' 1 7 = a := by
  apply BitVec.eq_of_getLsbD_eq
  intro i hi
  rw [addrByte, BitVec.getLsbD_extractLsb', BitVec.getLsbD_append]
  simp [hi, Nat.add_comm 1 i]

section
variable {d : RefDevice} {s : State} {a : Addr7} {rw : Bool} {c : Instr} {r : Ret}
  {pt pt' pt'' : Point}

/-- A requested START is made and stands on the wire. -/
theorem Served.makesStart (h : Served d .idle false false false s) (c : Instr) (r : Ret) (pt : Point) :
    ∃ t, answered (Machine.callStart c r pt s) = t ∧
      Served { d with wcnt := 0 } .awaitAddr true false false t ∧ t.seq = .poll c r pt 0 ∧
      Sends [.start] s t := by
  obtain ⟨hpe, hstart, hstop, haf, hph, hsb, haddr, hrx⟩ := h.bus
  have hs : Serving d (s.countStart.onBus (·.setStart true)) := ⟨h.fault, h.agenda, h.agent⟩
  have hcount : Sends [] s (s.countStart.onBus (·.setStart true)) := ⟨rfl, rfl, rfl⟩
  have he : d.next (s.bus.setStart true) = some .start :=
    d.next_start hpe rfl hstop (by rw [show (s.bus.setStart true).phase = _ from hph]; rfl)
  obtain ⟨t, ht, hbus, hserving, hq, hsends⟩ := hs.answers (p := s.bus.setStart true) c r pt rfl he rfl
    (RefDevice.next_none _ rfl hstop (.inr (.inl rfl)))
  refine ⟨t, ht, ⟨hserving, ?_, rfl⟩, hq, hcount.trans hsends⟩
  rw [hbus]
  exact ⟨hpe, rfl, hstop, haf, rfl, rfl, haddr, hrx⟩

/-- The device has refused an address byte: `AF` is set, and nothing is left for it to do. -/
structure Refused (d : RefDevice) (s : State) : Prop extends Serving d s where
  pe : s.bus.cr.pe = true
  start : s.bus.cr.start = false
  stop : s.bus.cr.stop = false
  phase : s.bus.phase = .nacked
  af : s.bus.sr1.af = true
  addr : s.bus.sr1.addr = false
  rxne : s.bus.sr1.rxne = false

theorem Refused.next_none (h : Refused d s) : d.next s.bus = none :=
  RefDevice.next_none d h.start h.stop (.inr (.inr h.phase))

/-- An address that is not the device's is refused. -/
theorem Served.refuses (h : Served d .awaitAddr true false false s) (ha : a ≠ Config.devAddr)
    (c : Instr) (r : Ret) (pt : Point) (rw : Bool) :
    ∃ t, answered (beginPoll c r pt (s.onBus (·.writeDR (addrByte a rw)))) = t ∧ Refused d t ∧
      t.seq = .poll c r pt 0 ∧ Sends [.addr (addrByte a rw) false] s t := by
  obtain ⟨hpe, hstart, hstop, -, hph, hsb, haddr, hrx⟩ := h.bus
  have hw := writeDR_of_address s.bus (addrByte a rw) hph hsb
  have he : d.next (s.bus.writeDR (addrByte a rw)) = some .addrNack := by
    rw [hw]; exact d.next_addrNack hpe rfl ((extract_addrByte a rw).trans_ne ha)
  rw [hw] at he
  obtain ⟨t, ht, hbus, hserving, hq, hsends⟩ :=
    (h.toServing.onBus (·.writeDR (addrByte a rw))).answers c r pt hw he rfl
      (d.next_none hstart hstop (.inr (.inr rfl)))
  have hon : Sends [] s (s.onBus (·.writeDR (addrByte a rw))) := ⟨rfl, rfl, rfl⟩
  have hsends := hon.trans hsends
  rw [List.append_nil, BusEvent.wire, addrByte_split] at hsends
  refine ⟨t, ht, ⟨hserving, ?_, ?_, ?_, ?_, ?_, ?_, ?_⟩, hq, hsends⟩ <;> rw [hbus]
  · exact hpe
  · exact hstart
  · exact hstop
  · rfl
  · rfl
  · exact haddr
  · exact hrx

/-- After a refusal `AF` is cleared, and a requested STOP is made. -/
theorem Refused.makesStop (h : Refused d s) (c : Instr) (r : Ret) (pt : Point) :
    ∃ t, answered (Machine.callStop c r pt (s.onBus Periph.clearAF)) = t ∧
      Served d .idle false false false t ∧ t.seq = .poll c r pt 0 ∧ Sends [.stop] s t := by
  have he : d.next (s.bus.clearAF.setStop true) = some .stop :=
    d.next_stop h.pe rfl (by rw [show (s.bus.clearAF.setStop true).phase = _ from h.phase]; rfl)
  obtain ⟨t, ht, hbus, hserving, hq, hsends⟩ :=
    ((h.toServing.onBus Periph.clearAF).onBus (·.setStop true)).answers c r pt rfl he rfl
      (d.next_none h.start rfl (.inl rfl))
  have hon : Sends [] s ((s.onBus Periph.clearAF).onBus (·.setStop true)) := ⟨rfl, rfl, rfl⟩
  refine ⟨t, ht, ⟨hserving, ?_, rfl⟩, hq, hon.trans hsends⟩
  rw [hbus]
  exact ⟨h.pe, h.start, rfl, rfl, rfl, rfl, h.addr, h.rxne⟩

/-- From the START to the end of the STOP of a transfer whose address no device answers: three polls,
each ended by its first observation (R157). -/
theorem Served.leadsTo_refused (h : Served d .idle false false false s) (ha : a ≠ Config.devAddr)
    (hsb : ∀ obs, pt.cond obs = obs.sr1.sb)
    (hwrite : ∀ obs u, resume c r pt (some obs) u =
      beginPoll c r pt' (u.onBus (·.writeDR (addrByte a rw))))
    (haf : ∀ obs, pt'.cond obs = (obs.sr1.addr || obs.sr1.af))
    (hnack : ∀ obs u, obs.sr1.addr = false → obs.sr1.af = true →
      resume c r pt' (some obs) u = Machine.callStop c r pt'' (u.onBus Periph.clearAF))
    (hclr : ∀ obs, pt''.cond obs = !obs.cr.stop) :
    ∃ u obs, LeadsTo 3 (answered (Machine.callStart c r pt s))
        (answered (resume c r pt'' (some obs) u)) ∧
      Served { d with wcnt := 0 } .idle false false false u ∧
      Sends [.stop, .addr (addrByte a rw) false, .start] s u := by
  obtain ⟨t₁, ht₁, hstarted, hq₁, hsends₁⟩ := h.makesStart c r pt
  obtain ⟨u₁, hl₁, hs₁, hbus₁, hsame₁⟩ := hstarted.toServing.leadsTo_polled
    (hstarted.bus.next_none rfl _) hq₁ ((hsb _).trans hstarted.bus.sb)
  have hstarted₁ : Served { d with wcnt := 0 } .awaitAddr true false false u₁ :=
    ⟨hs₁, hbus₁ ▸ hstarted.bus, rfl⟩
  obtain ⟨t₂, ht₂, hrefused, hq₂, hsends₂⟩ := hstarted₁.refuses ha c r pt' rw
  obtain ⟨u₂, hl₂, hs₂, hbus₂, hsame₂⟩ := hrefused.toServing.leadsTo_polled hrefused.next_none hq₂
    (by rw [haf, Periph.observe, hrefused.af, Bool.or_true])
  have hrefused₂ : Refused { d with wcnt := 0 } u₂ :=
    { hs₂ with
      pe := hbus₂ ▸ hrefused.pe, start := hbus₂ ▸ hrefused.start, stop := hbus₂ ▸ hrefused.stop,
      phase := hbus₂ ▸ hrefused.phase, af := hbus₂ ▸ hrefused.af, addr := hbus₂ ▸ hrefused.addr,
      rxne := hbus₂ ▸ hrefused.rxne }
  obtain ⟨t₃, ht₃, hstopped, hq₃, hsends₃⟩ := hrefused₂.makesStop c r pt''
  obtain ⟨u₃, hl₃, hs₃, hbus₃, hsame₃⟩ := hstopped.toServing.leadsTo_polled
    (hstopped.bus.next_none rfl _) hq₃ (by rw [hclr, Periph.observe, hstopped.bus.stop]; rfl)
  rw [hwrite, ht₂] at hl₁
  rw [hnack _ _ hrefused.addr hrefused.af, ht₃] at hl₂
  exact ⟨u₃, _, ht₁ ▸ (hl₁.trans hl₂).trans hl₃, ⟨hs₃, hbus₃ ▸ hstopped.bus, rfl⟩,
    ((hsends₁.trans hsame₁).trans (hsends₂.trans hsame₂)).trans (hsends₃.trans hsame₃)⟩

end

/-! ## The commands -/

/-- What a command finds at its first step is what the host left. -/
theorem firstStep_core (s : State) (w : Word) (q : Seq) :
    (s.latched w q).countSeqStep.mem = s.mem ∧ (s.latched w q).countSeqStep.wire = s.wire ∧
      (s.latched w q).tally = s.tally := ⟨rfl, rfl, rfl⟩

section
variable {d : RefDevice} {s t : State} {a : Addr7}

/-- A command that comes to `t` from its first actions ends there, its observations counted. -/
theorem UnderReference.exec_counted {n : Nat} {i : Instr} (h : UnderReference d s) (hw : i.wf = true)
    (hl : LeadsTo n (answered (enter i (s.latched (encode i) (.entry i)).countSeqStep)) t)
    (ht : Accepts t) : exec i s = .next t ∧ t.tally.observations = s.tally.observations + n := by
  refine ⟨h.exec_eq hw hl ht, ?_⟩
  have hfirst := (h.served.latched (encode i) (.entry i)).toServing.leadsTo_enter rfl
  obtain ⟨-, -, htally⟩ := firstStep_core s (encode i) (.entry i)
  have hcount := (hfirst.trans hl).2
  rwa [htally, Nat.zero_add] at hcount

/-- A transfer to an address no device answers, from its START to its return with AddressNack. -/
theorem UnderReference.exec_refused (h : UnderReference d s) (ha : a ≠ Config.devAddr) {i : Instr}
    {rw : Bool} {pt pt' pt'' : Point} (hw : i.wf = true)
    (henter : ∀ v : State, v.mem = s.mem → enter i v = callStart i .top pt v)
    (hsb : ∀ obs, pt.cond obs = obs.sr1.sb)
    (hwrite : ∀ obs u, resume i .top pt (some obs) u =
      beginPoll i .top pt' (u.onBus (·.writeDR (addrByte a rw))))
    (haf : ∀ obs, pt'.cond obs = (obs.sr1.addr || obs.sr1.af))
    (hnack : ∀ obs u, obs.sr1.addr = false → obs.sr1.af = true →
      resume i .top pt' (some obs) u = callStop i .top pt'' (u.onBus Periph.clearAF))
    (hclr : ∀ obs, pt''.cond obs = !obs.cr.stop)
    (hret : ∀ obs u, resume i .top pt'' (some obs) u = endCmd (u.setOutcome .addressNack)) :
    ∃ t, exec i s = .next t ∧ Accepts t ∧ t.outcome = .addressNack ∧
      t.tally.observations = s.tally.observations + 3 ∧ t.bus.sr1.af = false ∧ t.bus.phase = .idle ∧
      t.wire = .stop :: .addr (addrByte a rw) false :: .start :: s.wire ∧ t.mem = s.mem := by
  obtain ⟨hmem, hwire, -⟩ := firstStep_core s (encode i) (.entry i)
  have hfirst := (h.served.latched (encode i) (.entry i)).countSeqStep
  obtain ⟨u, obs, hl, hu, hsends⟩ := hfirst.leadsTo_refused ha hsb hwrite haf hnack hclr
  rw [hret, (hu.returned .addressNack).answered_eq, ← henter _ hmem] at hl
  obtain ⟨hexec, hobs⟩ := h.exec_counted hw hl ⟨rfl, hu.fault⟩
  have hwire := hsends.wire.trans (congrArg _ hwire)
  exact ⟨_, hexec, ⟨rfl, hu.fault⟩, rfl, hobs, hu.bus.af, hu.bus.phase, hwire, hsends.mem.trans hmem⟩

/-- An attempt of a probe, refused (R154 Q8). -/
theorem Served.leadsTo_nextAttempt (h : Served d .idle false false false s) (ha : a ≠ Config.devAddr)
    (c : Instr) (m k : Nat) :
    ∃ u, LeadsTo 3 (answered (probeAttempt c .top a m k s)) (answered (nextAttempt c .top a m k u)) ∧
      Served { d with wcnt := 0 } .idle false false false u := by
  obtain ⟨u, obs, hl, hu, -⟩ := h.leadsTo_refused ha (c := c) (r := .top) (rw := false)
    (pt := .q2 a m k) (pt' := .q5 a m k) (pt'' := .qStop a m k false) (fun _ => rfl) (fun _ _ => rfl)
    (fun _ => rfl) (fun _ _ haddr _ => by simp [resume, afterQ5, haddr]) (fun _ => rfl)
  exact ⟨u, hl, hu⟩

/-- The end of a probe that was not acknowledged leaves the bus as it is. -/
theorem Served.notReady (h : Served d .idle false false false s) (c : Instr) :
    answered (returnProbe c .top false s) = endCmd (s.setReady false) :=
  (h.of_same (t := endCmd (s.setReady false)) rfl rfl rfl rfl).answered_eq

/-- The attempts of a probe from the `k`-th on, all refused. -/
theorem Served.leadsTo_notReady (h : Served d .idle false false false s) (ha : a ≠ Config.devAddr)
    (c : Instr) {m k j : Nat} (hk : k + j = m) :
    ∃ u d', LeadsTo (3 * (j + 1)) (answered (probeAttempt c .top a m k s))
        (endCmd (u.setReady false)) ∧
      Served d' .idle false false false u := by
  induction j generalizing s d k with
  | zero =>
    obtain ⟨u, hl, hu⟩ := h.leadsTo_nextAttempt ha c m k
    rw [nextAttempt, if_neg (by omega), hu.notReady] at hl
    exact ⟨u, _, hl, hu⟩
  | succ j ih =>
    obtain ⟨v, hlv, hv⟩ := h.leadsTo_nextAttempt ha c m k
    rw [nextAttempt, if_pos (by omega)] at hlv
    obtain ⟨u, d', hl, hu⟩ := ih (k := k + 1) hv (by omega)
    exact ⟨u, d', by rw [Nat.mul_add_one, Nat.add_comm]; exact hlv.trans hl, hu⟩

/-- A probe of an address no device answers: three observations for each attempt. -/
theorem Served.leadsTo_probe_notReady (h : Served d .idle false false false s)
    (ha : a ≠ Config.devAddr) (c : Instr) (m : Nat) :
    ∃ u d', LeadsTo (3 * m) (answered (callProbe c .top a m s)) (endCmd (u.setReady false)) ∧
      Served d' .idle false false false u := by
  cases m with
  | zero =>
    have hnone : callProbe c .top a 0 s = returnProbe c .top false s := rfl
    rw [hnone, h.notReady]
    exact ⟨s, d, ⟨⟨0, rfl⟩, rfl⟩, h⟩
  | succ m => exact h.leadsTo_notReady ha c (Nat.add_comm 1 m)

end

/-- Settles O28. -/
theorem referenceOtherAddressNacks : Obligations.ReferenceOtherAddressNacks := by
  unfold Obligations.ReferenceOtherAddressNacks
  intro s d a h ha
  refine ⟨fun n hn htx => ?write, fun n hne hn => ?read, fun m => ?probe⟩
  case write =>
    obtain ⟨t, ht, hacc, hout, hobs, haf, hph, hwire, -⟩ := h.exec_refused ha (i := .write a n)
      (rw := false) (pt := .w1 a n.toNat) (pt' := .w4 a n.toNat) (pt'' := .wStop .addressNack)
      (decide_eq_true hn)
      (fun v hv => by
        have hready : TxReady v n.toNat := fun j hj => by rw [txByte_of_mem hv]; exact htx j hj
        rw [enter, callWrite, firstUnsetTx_eq_none hready])
      (fun _ => rfl) (fun _ _ => rfl) (fun _ => rfl)
      (fun _ _ _ haf => by simp [resume, afterW4, haf]) (fun _ => rfl) (fun _ _ => rfl)
    exact ⟨t, ht, hacc, hout, hobs, haf, hph, hwire⟩
  case read =>
    obtain ⟨t, ht, hacc, hout, hobs, haf, hph, hwire, hmem⟩ := h.exec_refused ha (i := .read a n)
      (rw := true) (pt := .rd2 a n.toNat) (pt' := .rd5 a n.toNat) (pt'' := .rdStop .addressNack)
      (decide_eq_true hn) (fun _ _ => if_neg hne) (fun _ => rfl) (fun _ _ => rfl) (fun _ => rfl)
      (fun _ _ _ haf => by simp [resume, afterRd5, haf]) (fun _ => rfl) (fun _ _ => rfl)
    exact ⟨t, ht, hacc, hout, hobs, haf, hph, hwire, fun _ => by rw [hmem]⟩
  case probe =>
    obtain ⟨u, d', hl, hu⟩ := (h.served.latched (encode (.probe a m))
      (.entry (.probe a m))).countSeqStep.leadsTo_probe_notReady ha (.probe a m) m.toNat
    obtain ⟨hexec, hobs⟩ := h.exec_counted (i := .probe a m) rfl hl ⟨rfl, hu.fault⟩
    obtain ⟨t, ht, -, -, -, hall, -⟩ := exec_probe h.accepts a m
    cases hexec.symm.trans ht
    exact ⟨_, hexec, ⟨rfl, hu.fault⟩, rfl, hall rfl, hobs, hu.bus.af, hu.bus.phase⟩

end Sys2Proof.Machine
end

section
/-! SUPPORT. The sensor family: what holds along a sensor command on any bus (41_sensor R201–R211).
A `Script` says what holds while each sub-sequence runs; the sub-sequences' own polls, the bus
agent's moves and the observations leave it alone. -/

namespace Sys2Proof.Machine

/-! ## The registers a sensor command is about -/

/-- What the claims about sensor commands speak of: no move of the bus agent, no observation and no
poll changes any of it. -/
structure Regs where
  params : Params
  data : Readings
  mem : Memory
  draws : Nat
  ready : Bool
  outcome : TxOutcome
  fault : Option FaultRecord
  starts : Nat

def State.regs (s : State) : Regs :=
  { params := s.params, data := s.data, mem := s.mem, draws := s.draws, ready := s.ready,
    outcome := s.outcome, fault := s.fault, starts := s.tally.starts }

/-- `TXBUF[j]`. -/
def Regs.tx (R : Regs) (j : Nat) : Option Byte := memGet R.mem (txBase + j)

/-- `RXBUF[j]`. -/
def Regs.rx (R : Regs) (j : Nat) : Option Byte := memGet R.mem (rxBase + j)

theorem BusMoves.regs {s t : State} (h : BusMoves s t) : t.regs = s.regs := by rw [h.rest]; rfl

/-! ## Sub-sequences (R201) -/

/-- How many bytes the `write` called from a line sends: a pointer, or a register with its value. -/
def Ret.sends : Ret → Option Nat
  | .c1Ptr | .m1Ptr | .i3Ptr => some 1
  | .g1 | .g2 => some 2
  | .top | .c1Burst | .m1Burst | .i1 | .i3Burst => none

/-- How many bytes the `read` called from a line receives. -/
def Ret.receives : Ret → Option Nat
  | .c1Burst => some Config.calLen
  | .m1Burst => some Config.rawLen
  | .i3Burst => some 1
  | .top | .c1Ptr | .g1 | .g2 | .m1Ptr | .i1 | .i3Ptr => none

/-- The polls of the sub-sequence a line of a sensor command calls. -/
inductive SubPoll (s : State) : Ret → Point → Prop where
  | write {r : Ret} {n : Nat} {pt : Point} (hr : r.sends = some n)
      (h : WritePoll Config.devAddr n pt) : SubPoll s r pt
  | read {r : Ret} {n : Nat} {pt : Point} (hr : r.receives = some n)
      (h : ReadPoll Config.devAddr n s pt) : SubPoll s r pt
  | probe {m k : Nat} {pt : Point} (h : ProbePoll Config.devAddr m k pt) : SubPoll s .i1 pt

theorem SubPoll.of_same {s t : State} {r : Ret} {pt : Point} (h : SubPoll s r pt)
    (hack : t.bus.cr.ack = s.bus.cr.ack) (hmem : t.mem = s.mem) : SubPoll t r pt := by
  cases h with
  | write hr h => exact .write hr h
  | read hr h => exact .read hr (h.of_same hack hmem)
  | probe h => exact .probe h

/-- No line calls both a `write` and a `read`. -/
theorem not_sends_and_receives {r : Ret} {n k : Nat} (hs : r.sends = some n)
    (hr : r.receives = some k) : False := by
  cases r
  case c1Burst | m1Burst | i3Burst => cases hs
  all_goals cases hr

/-- A burst fits `RXBUF`. -/
theorem receives_bounds {r : Ret} {n : Nat} (hr : r.receives = some n) : 0 < n ∧ n ≤ 32 := by
  cases r <;> cases hr <;> decide

/-! ## A script of a sensor command -/

/-- What holds along a sensor command: `start` are the registers it is issued with, `held r` holds
while the sub-sequence called from `r` runs, `ended` once the command has ended or a fault has stopped
it. -/
structure Script where
  start : Regs
  held : Ret → Regs → Prop
  ended : Regs → Prop

/-- What the script says of a state whose sequencer stands at a place of `c`. -/
def Script.there (A : Script) (c : Instr) : Seq → State → Prop
  | .idle, s => A.ended s.regs
  | .entry c', s => c' = c ∧ s.regs = A.start
  | .poll c' r pt _, s => c' = c ∧ A.held r s.regs ∧ SubPoll s r pt
  | .polled c' r pt _, s => c' = c ∧ A.held r s.regs ∧ SubPoll s r pt

/-- The command `c` follows the script in `s`. -/
def Script.Holds (A : Script) (c : Instr) (s : State) : Prop :=
  (s.fault ≠ none ∧ A.ended s.regs) ∨ (s.fault = none ∧ A.there c s.seq s)

/-- What keeps a command on its script: its first step, and what the lines do that call a `write`, a
`read` or a probe and take its result. -/
structure Script.Kept (A : Script) (c : Instr) : Prop where
  enter : ∀ {s : State}, s.fault = none → s.regs = A.start → A.Holds c (enter c s)
  sent : ∀ {s : State} {r n}, r.sends = some n → s.fault = none → A.held r s.regs →
    TxReady s n ∧ ∀ o, A.Holds c (returnWrite c r o s)
  stored : ∀ {s : State} {r n i} b, r.receives = some n → i < n → A.held r s.regs →
    A.held r (s.putRx i b).regs
  received : ∀ {s : State} {r n o}, r.receives = some n → s.fault = none → A.held r s.regs →
    (o = .success → ∀ j, j < n → (s.rxByte j).isSome = true) → A.Holds c (returnRead c r o s)
  again : ∀ {s : State}, A.held .i1 s.regs → A.held .i1 s.countStart.regs
  probed : ∀ {s : State} ready, s.fault = none → A.held .i1 s.regs →
    A.Holds c (returnProbe c .i1 ready s)

section
variable {A : Script} {c : Instr} {r : Ret} {s : State}

theorem Script.holds_endCmd (hf : s.fault = none) (h : A.ended s.regs) : A.Holds c (endCmd s) :=
  .inr ⟨hf, h⟩

theorem Script.holds_callRead {n : Nat} (hr : r.receives = some n) (hf : s.fault = none)
    (h : A.held r s.countStart.regs) : A.Holds c (callRead c r Config.devAddr n s) :=
  .inr ⟨hf, rfl, h, .read hr .start⟩

theorem Script.holds_callStop {pt : Point} (hf : s.fault = none) (h : A.held r s.regs)
    (hp : SubPoll (callStop c r pt s) r pt) : A.Holds c (callStop c r pt s) := .inr ⟨hf, rfl, h, hp⟩

theorem Script.holds_sendByte {n : Nat} (i : Nat) (hr : r.sends = some n) (hf : s.fault = none)
    (htx : TxReady s n) (h : A.held r s.regs) : A.Holds c (sendByte c r Config.devAddr n i s) := by
  by_cases hi : i < n
  · obtain ⟨b, hb⟩ := Option.isSome_iff_exists.1 (htx i hi)
    rw [sendByte_eq hi hb]
    exact .inr ⟨hf, rfl, h, .write hr (.byte i)⟩
  · rw [sendByte, if_neg hi]
    exact holds_callStop hf h (.write hr (.stop _))

theorem Script.holds_observeStep {pt : Point} (j : Nat) (hf : s.fault = none) (h : A.held r s.regs)
    (hp : SubPoll s r pt) : A.Holds c (observeStep c r pt j s) := by
  unfold observeStep; dsimp only; split_ifs
  all_goals exact .inr ⟨hf, rfl, h, hp.of_same rfl rfl⟩

theorem Script.holds_moves {t : State} (hm : BusMoves s t) (h : A.Holds c s) : A.Holds c t := by
  unfold Script.Holds at *
  rw [hm.fault, hm.regs, hm.seq]
  refine h.imp_right fun ⟨hf, hthere⟩ => ⟨hf, ?_⟩
  cases hq : s.seq with rw [hq] at hthere
  | idle => exact (congrArg A.ended hm.regs).mpr hthere
  | entry c' => exact ⟨hthere.1, hm.regs.trans hthere.2⟩
  | poll c' r pt j => exact ⟨hthere.1, hm.regs ▸ hthere.2.1, hthere.2.2.of_same hm.ack hm.mem⟩
  | polled c' r pt res => exact ⟨hthere.1, hm.regs ▸ hthere.2.1, hthere.2.2.of_same hm.ack hm.mem⟩

end

namespace Script.Kept
variable {A : Script} {c : Instr} (hA : A.Kept c) {r : Ret} {s : State}
include hA

theorem holds_write {n : Nat} {pt : Point} (res : Option Obs) (hr : r.sends = some n)
    (hf : s.fault = none) (h : A.held r s.regs) (hp : WritePoll Config.devAddr n pt) :
    A.Holds c (resume c r pt res s) := by
  obtain ⟨htx, hret⟩ := hA.sent hr hf h
  have hstop : ∀ o f, A.Holds c (callStop c r (.wStop o) (s.onBus f)) :=
    fun o f => holds_callStop (s := s.onBus f) hf h (.write hr (.stop o))
  cases hp with
  | start =>
    cases res
    · exact hstop _ id
    · exact .inr ⟨hf, rfl, h, .write hr .address⟩
  | address =>
    rw [Machine.resume]; unfold afterW4; split
    · exact hstop _ id
    · split
      · exact hstop _ _
      · exact holds_sendByte (s := s.onBus Periph.clearStatus) 0 hr hf htx h
  | byte i =>
    cases res
    · exact hstop _ id
    · exact holds_sendByte (i + 1) hr hf htx h
  | stop o => exact hret o

theorem holds_read {n : Nat} {pt : Point} (res : Option Obs) (hr : r.receives = some n)
    (hf : s.fault = none) (h : A.held r s.regs) (hp : ReadPoll Config.devAddr n s pt) :
    A.Holds c (resume c r pt res s) := by
  obtain ⟨hpos, hle⟩ := receives_bounds hr
  have hstop : ∀ o f, o ≠ .success → A.Holds c (callStop c r (.rdStop o) (s.onBus f)) :=
    fun o f ho => holds_callStop (s := s.onBus f) hf h (.read hr (.stop ho))
  cases hp with
  | start =>
    cases res
    · exact hstop _ id (by decide)
    · exact .inr ⟨hf, rfl, h, .read hr .address⟩
  | address =>
    rw [Machine.resume]; unfold afterRd5; split
    · exact hstop _ id (by decide)
    · split
      · exact hstop _ _ (by decide)
      · exact .inr ⟨hf, rfl, h, .read hr (.byte hpos (armReceive_ack hpos _)
          fun j hj => absurd hj (Nat.not_lt_zero j))⟩
  | @byte i hi hack hset =>
    have hheld : A.held r (takeByte n i s).regs := by
      rw [takeByte_eq]; exact hA.stored s.bus.dr hr hi h
    have hsafe : (takeByte n i s).fault = none := by rw [takeByte_eq]; exact hf
    have hall := fun j => isSome_takeByte (s := s) (n := n) (j := j) (by omega) hset
    cases res
    · exact hstop _ id (by decide)
    · rw [Machine.resume]; simp only [afterRd11]; split
      · rename_i hnext
        exact .inr ⟨hsafe, rfl, hheld, .read hr (.byte hnext (takeByte_ack_next hnext hack) hall)⟩
      · exact hA.received hr hsafe hheld fun _ j hj => hall j (by omega)
  | stop ho => exact hA.received hr hf h fun hs => absurd hs ho

theorem holds_nextAttempt (m k : Nat) (hf : s.fault = none) (h : A.held .i1 s.regs) :
    A.Holds c (nextAttempt c .i1 Config.devAddr m k s) := by
  unfold nextAttempt; split
  · exact .inr ⟨hf, rfl, hA.again h, .probe .start⟩
  · exact hA.probed false hf h

theorem holds_probe {m k : Nat} {pt : Point} (res : Option Obs) (hf : s.fault = none)
    (h : A.held .i1 s.regs) (hp : ProbePoll Config.devAddr m k pt) :
    A.Holds c (resume c .i1 pt res s) := by
  have hstop : ∀ acked f,
      A.Holds c (callStop c .i1 (.qStop Config.devAddr m k acked) (s.onBus f)) :=
    fun acked f => holds_callStop (s := s.onBus f) hf h (.probe (.stop acked))
  cases hp with
  | start =>
    cases res
    · exact hA.holds_nextAttempt m k hf h
    · exact .inr ⟨hf, rfl, h, .probe .address⟩
  | address =>
    rw [Machine.resume]; unfold afterQ5; split
    · exact hstop _ id
    · split
      · exact hstop _ _
      · exact hstop _ _
  | stop acked =>
    cases acked
    · exact hA.holds_nextAttempt m k hf h
    · exact hA.probed true hf h

theorem holds_seqStep (h : A.Holds c s) (hf : s.fault = none) : A.Holds c (seqStep s) := by
  obtain ⟨hfault, -⟩ | ⟨hf, hthere⟩ := holds_moves (busMoves_countSeqStep s) h
  · exact absurd hf hfault
  cases hq : s.seq with rw [show s.countSeqStep.seq = _ from hq] at hthere
  | idle => rwa [seqStep_idle hq]
  | entry c' =>
    obtain ⟨rfl, hstart⟩ := hthere
    rw [seqStep_entry hq]; exact hA.enter hf hstart
  | poll c' r pt j =>
    obtain ⟨rfl, hheld, hp⟩ := hthere
    rw [seqStep_poll hq]; exact holds_observeStep j hf hheld hp
  | polled c' r pt res =>
    obtain ⟨rfl, hheld, hp⟩ := hthere
    rw [seqStep_polled hq]
    cases hp with
    | write hr hp => exact hA.holds_write res hr hf hheld hp
    | read hr hp => exact hA.holds_read res hr hf hheld hp
    | probe hp => exact hA.holds_probe res hf hheld hp

theorem carried : Carried (A.Holds c) where
  agenda s l h := holds_moves (busMoves_setAgenda s l) h
  seqStep s h _ hf := hA.holds_seqStep h ((faulted_eq_false_iff s).1 hf)
  event _ _ h he := holds_moves (busMoves_takeEvent he) h
  device s _ _ _ h _ := holds_moves (busMoves_setBusAgent s _) h

/-- A command that sets out on its script follows it to its end, or to the fault that stops it. -/
theorem exec (hw : c.wf = true) (hs : Accepts s) (hstart : s.regs = A.start) :
    ∃ t, Machine.exec c s = .next t ∧ A.ended t.regs ∧
      (t.fault = none → Sys2Proof.Claims.Ended c s t) := by
  have hlatched : A.Holds c (s.latched (encode c) (.entry c)) := .inr ⟨hs.2, rfl, hstart⟩
  have hrun := hA.carried.runCommand _ hlatched
  have hend := runCommand_ends (s.latched (encode c) (.entry c))
  refine ⟨runCommand (s.latched (encode c) (.entry c)),
    by rw [exec_eq_issue, issue_of_idle hw hs.1 hs.2]; rfl, ?_, fun hf => ?_⟩
  · obtain ⟨-, h⟩ | ⟨hf, hthere⟩ := hrun
    · exact h
    · rw [busy_eq_false_iff, (faulted_eq_false_iff _).2 hf] at hend
      rwa [hend.resolve_right Bool.false_ne_true] at hthere
  · rw [busy_eq_false_iff, (faulted_eq_false_iff _).2 hf] at hend
    exact ⟨⟨hend.resolve_right Bool.false_ne_true, hf⟩, (runCommand_keepsRun _).of_latched⟩

end Script.Kept

end Sys2Proof.Machine
end

section
/-! SUPPORT. The sensor family: `CONFIGURE`, `READ_CAL` and `READ_RAW` on any bus (41_sensor R202,
R204, R206; O29, O30, O31). -/

namespace Sys2Proof.Machine

/-! ## What a line writes into the buffers (R201) -/

/-- Every byte but `TXBUF[0..k-1]` and `RXBUF[0..n-1]` is as it was. -/
def KeptOutside (k n : Nat) (m m' : Memory) : Prop :=
  ∀ x, ¬(txBase ≤ x ∧ x < txBase + k) → ¬(rxBase ≤ x ∧ x < rxBase + n) → memGet m' x = memGet m x

theorem KeptOutside.refl (k n : Nat) (m : Memory) : KeptOutside k n m m := fun _ _ _ => rfl

theorem KeptOutside.widen {k k' n n' : Nat} {m m' : Memory} (h : KeptOutside k n m m') (hk : k ≤ k')
    (hn : n ≤ n') : KeptOutside k' n' m m' := fun x hx hx' => h x (by omega) (by omega)

theorem KeptOutside.putTx {k n j : Nat} {m m' : Memory} (h : KeptOutside k n m m') (b : Byte)
    (hj : j < k) : KeptOutside k n m (memPut m' (txBase + j) b) := fun x hx hx' =>
  (memGet_put_other m' b (by omega)).trans (h x hx hx')

theorem KeptOutside.putRx {k n i : Nat} {m m' : Memory} (h : KeptOutside k n m m') (b : Byte)
    (hi : i < n) : KeptOutside k n m (memPut m' (rxBase + i) b) := fun x hx hx' =>
  (memGet_put_other m' b (by omega)).trans (h x hx hx')

section
variable (s : State) (r v b : Byte)

@[simp] theorem regs_setReady (ready : Bool) :
    (s.setReady ready).regs = { s.regs with ready := ready } := rfl
@[simp] theorem regs_countStart :
    s.countStart.regs = { s.regs with starts := s.regs.starts + 1 } := rfl

/-- The pointer of a register read stands in `TXBUF[0]`. -/
theorem putTx_pointer : (s.putTx 0 r).txByte 0 = some r :=
  memGet_put_same (a := txBase) s.mem r (by decide)

/-- A register write leaves the register in `TXBUF[0]` and the value in `TXBUF[1]`. -/
theorem putTx_pair :
    ((s.putTx 0 r).putTx 1 v).txByte 0 = some r ∧ ((s.putTx 0 r).putTx 1 v).txByte 1 = some v :=
  ⟨(memGet_put_other _ v (by decide : txBase + 0 ≠ txBase + 1)).trans (putTx_pointer s r),
    memGet_put_same (a := txBase + 1) _ v (by decide)⟩

/-- A byte to be sent goes to `TXBUF`, not to `RXBUF`. -/
theorem putTx_rxByte {j : Nat} (hj : j < 32) (i : Nat) : (s.putTx j b).rxByte i = s.rxByte i :=
  memGet_put_other s.mem b (by simp only [txBase, rxBase]; omega)

/-- A received byte goes to `RXBUF`, not to `TXBUF[0]`. -/
theorem putRx_pointer (i : Nat) : (s.putRx i b).txByte 0 = s.txByte 0 :=
  memGet_put_other s.mem b (by simp only [txBase, rxBase]; omega)

end

theorem txReady_one {s : State} {b : Byte} (h : s.txByte 0 = some b) : TxReady s 1 := fun j hj => by
  obtain rfl : j = 0 := by omega
  rw [h]; rfl

theorem txReady_two {s : State} {b v : Byte} (h0 : s.txByte 0 = some b) (h1 : s.txByte 1 = some v) :
    TxReady s 2 := fun j hj => by
  obtain rfl | rfl : j = 0 ∨ j = 1 := by omega
  · rw [h0]; rfl
  · rw [h1]; rfl

/-- A register read begins with the `start()` of its pointer write: its byte to send is set. -/
theorem callRegRead_eq (c : Instr) (ret : Ret) (r : Byte) (s : State) :
    callRegRead c ret r s = callStart c ret (.w1 Config.devAddr 1) (s.putTx 0 r) := by
  rw [callRegRead, callWrite, firstUnsetTx_eq_none (txReady_one (putTx_pointer s r))]

/-- A register write begins with its `start()`: both its bytes are set. -/
theorem callRegWrite_eq (c : Instr) (ret : Ret) (r v : Byte) (s : State) :
    callRegWrite c ret r v s =
      callStart c ret (.w1 Config.devAddr 2) ((s.putTx 0 r).putTx 1 v) := by
  obtain ⟨hreg, hvalue⟩ := putTx_pair s r v
  rw [callRegWrite, callWrite, firstUnsetTx_eq_none (txReady_two hreg hvalue)]

section
variable {A : Script} {c : Instr} {ret : Ret} {s : State}

theorem Script.holds_callRegRead (r : Byte) (hr : ret.sends = some 1) (hf : s.fault = none)
    (h : A.held ret (s.putTx 0 r).countStart.regs) : A.Holds c (callRegRead c ret r s) := by
  rw [callRegRead_eq]; exact .inr ⟨hf, rfl, h, .write hr .start⟩

theorem Script.holds_callRegWrite (r v : Byte) (hr : ret.sends = some 2) (hf : s.fault = none)
    (h : A.held ret ((s.putTx 0 r).putTx 1 v).countStart.regs) :
    A.Holds c (callRegWrite c ret r v s) := by
  rw [callRegWrite_eq]; exact .inr ⟨hf, rfl, h, .write hr .start⟩

end

/-- Nothing but the buffers, `OUTCOME` and the count of `start()` calls differs: what the transfers of
a line can change. -/
def Transfers (R₀ R : Regs) : Prop :=
  R = { R₀ with mem := R.mem, outcome := R.outcome, starts := R.starts }

theorem Transfers.refl (R : Regs) : Transfers R R := rfl

theorem Transfers.trans {R₀ R R' : Regs} (h : Transfers R₀ R) (h' : Transfers R R') :
    Transfers R₀ R' := by
  unfold Transfers at *
  rw [h', h]

section
variable {R₀ R : Regs} (h : Transfers R₀ R)
include h
theorem Transfers.params : R.params = R₀.params := by rw [h]
theorem Transfers.data : R.data = R₀.data := by rw [h]
theorem Transfers.draws : R.draws = R₀.draws := by rw [h]
theorem Transfers.ready : R.ready = R₀.ready := by rw [h]
theorem Transfers.fault : R.fault = R₀.fault := by rw [h]
end

/-! ## `CONFIGURE` (R204) -/

/-- The `k`-th register write of a `CONFIGURE` issued in `R₀`, of `v` to `r`. -/
structure Writing (R₀ : Regs) (r v : Byte) (k : Nat) (R : Regs) : Prop where
  regs : Transfers R₀ R
  starts : R.starts = R₀.starts + k
  reg : R.tx 0 = some r
  value : R.tx 1 = some v
  mem : KeptOutside 2 0 R₀.mem R.mem

/-- One more register write. -/
theorem Writing.next {R₀ : Regs} {k : Nat} {s : State} (hregs : Transfers R₀ s.regs)
    (hstarts : s.regs.starts = R₀.starts + k) (hmem : KeptOutside 2 0 R₀.mem s.regs.mem)
    (r v : Byte) : Writing R₀ r v (k + 1) ((s.putTx 0 r).putTx 1 v).countStart.regs where
  regs := hregs.trans rfl
  starts := congrArg (· + 1) hstarts
  reg := (putTx_pair s r v).1
  value := (putTx_pair s r v).2
  mem := (hmem.putTx r (by decide : 0 < 2)).putTx v (by decide : 1 < 2)

/-- G1, then G2. -/
def configureScript (R₀ : Regs) : Script where
  start := R₀
  held
    | .g1, R => Writing R₀ R.params.regCtrlMeas Config.ctrlMeasVal 1 R
    | .g2, R => Writing R₀ R.params.regConfig Config.configVal 2 R
    | _, _ => False
  ended R := Writing R₀ R.params.regConfig Config.configVal 2 R

theorem configureScript_kept (R₀ : Regs) : (configureScript R₀).Kept .configure where
  enter {s} hf hstart := by
    subst hstart
    exact Script.holds_callRegWrite _ _ rfl hf (.next (k := 0) (.refl _) rfl (.refl 2 0 _) _ _)
  sent {s r n} hr hf h := by
    cases r <;> cases hr
    case g1 =>
      obtain ⟨hregs, hstarts, hreg, hvalue, hmem⟩ := h
      refine ⟨txReady_two hreg hvalue, fun o => Script.holds_callRegWrite _ _ rfl hf ?_⟩
      exact .next (s := s.setOutcome o) (hregs.trans rfl) hstarts hmem _ _
    case g2 =>
      obtain ⟨hregs, hstarts, hreg, hvalue, hmem⟩ := h
      exact ⟨txReady_two hreg hvalue, fun o =>
        Script.holds_endCmd (s := s.setOutcome o) hf ⟨hregs.trans rfl, hstarts, hreg, hvalue, hmem⟩⟩
    all_goals exact False.elim h
  stored {_ r _ _} _ hr _ h := by cases r <;> cases hr <;> exact False.elim h
  received {_ r _ _} hr _ h := by cases r <;> cases hr <;> exact False.elim h
  again h := False.elim h
  probed _ _ h := False.elim h

/-- Settles O30: the registers its script ends with. -/
theorem configureResult : Obligations.ConfigureResult := by
  unfold Obligations.ConfigureResult
  intro s hs
  obtain ⟨t, ht, ⟨hregs, hstarts, hreg, hvalue, hmem⟩, hend⟩ :=
    (configureScript_kept s.regs).exec rfl hs rfl
  refine ⟨t, ht, hend (hregs.fault.trans hs.2), hregs.ready, hregs.draws, hregs.data, hstarts, ?_,
    hvalue, fun x h0 h1 => hmem x (by omega) (by omega)⟩
  rwa [hregs.params] at hreg

/-! ## `regread` (R201) -/

/-- The register read of `n` bytes from `reg` on that a line makes in `R₀`. -/
structure Reading (R₀ : Regs) (reg : Byte) (n : Nat) (R : Regs) : Prop where
  regs : Transfers R₀ R
  pointer : R.tx 0 = some reg
  mem : KeptOutside 1 n R₀.mem R.mem

section
variable {R₀ : Regs} {reg : Byte} {n : Nat} {s : State}

/-- The pointer write of a register read. -/
theorem Reading.begin (hregs : Transfers R₀ s.regs) (hmem : KeptOutside 1 n R₀.mem s.mem)
    (reg : Byte) : Reading R₀ reg n (s.putTx 0 reg).countStart.regs where
  regs := hregs.trans rfl
  pointer := putTx_pointer s reg
  mem := hmem.putTx reg (by decide : 0 < 1)

theorem Reading.setOutcome (h : Reading R₀ reg n s.regs) (o : TxOutcome) :
    Reading R₀ reg n (s.setOutcome o).regs := ⟨h.regs.trans rfl, h.pointer, h.mem⟩

theorem Reading.countStart (h : Reading R₀ reg n s.regs) : Reading R₀ reg n s.countStart.regs :=
  ⟨h.regs.trans rfl, h.pointer, h.mem⟩

theorem Reading.putRx (h : Reading R₀ reg n s.regs) {i : Nat} (b : Byte) (hi : i < n) :
    Reading R₀ reg n (s.putRx i b).regs :=
  ⟨h.regs.trans rfl, (putRx_pointer s b i).trans h.pointer, h.mem.putRx b hi⟩

end

/-- A `regread` that has returned in `u`: after a success every byte of the burst is set. -/
structure HasRead (R₀ : Regs) (reg : Byte) (n : Nat) (u : State) : Prop where
  reading : Reading R₀ reg n u.regs
  full : u.outcome = .success → ∀ j, j < n → (u.rxByte j).isSome = true

theorem Reading.returned {R₀ : Regs} {reg : Byte} {n : Nat} {s : State}
    (h : Reading R₀ reg n s.regs) {o : TxOutcome}
    (hfull : o = .success → ∀ j, j < n → (s.rxByte j).isSome = true) :
    HasRead R₀ reg n (s.setOutcome o) := ⟨h.setOutcome o, hfull⟩

/-! ## A command that is one `regread` -/

/-- A command that reads `n` registers from `reg` on, the pointer write called from `ptr`, the burst
from `burst`, and ends with what `done` makes of the result. -/
def regReadScript (ptr burst : Ret) (reg : Params → Byte) (n : Nat)
    (done : TxOutcome → State → State) (R₀ : Regs) : Script where
  start := R₀
  held r R := (r = ptr ∨ r = burst) ∧ Reading R₀ (reg R.params) n R
  ended R := ∃ u, HasRead R₀ (reg u.params) n u ∧ R = (done u.outcome u).regs

/-- The command running in `t` has ended, or a fault has stopped it. -/
def Stopped (t : State) : Prop := t.fault ≠ none ∨ t.fault = none ∧ t.seq = .idle

section
variable {ptr burst : Ret} {reg : Params → Byte} {n : Nat} {done : TxOutcome → State → State}
  {c : Instr} {R₀ : Regs}

theorem regReadScript_done {u : State} (hstop : Stopped (done u.outcome u))
    (h : HasRead R₀ (reg u.params) n u) :
    (regReadScript ptr burst reg n done R₀).Holds c (done u.outcome u) := by
  have hended : (regReadScript ptr burst reg n done R₀).ended (done u.outcome u).regs := ⟨u, h, rfl⟩
  refine hstop.imp (fun hfault => ⟨hfault, hended⟩) fun ⟨hsafe, hidle⟩ => ⟨hsafe, ?_⟩
  rw [hidle]; exact hended

theorem regReadScript_kept (hptr : ptr.sends = some 1) (hburst : burst.receives = some n)
    (henter : ∀ s, enter c s = callRegRead c ptr (reg s.params) s)
    (hwrite : ∀ o s, returnWrite c ptr o s =
      if o = .success then callRead c burst Config.devAddr n (s.setOutcome o)
      else done o (s.setOutcome o))
    (hread : ∀ o s, returnRead c burst o s = done o (s.setOutcome o))
    (hstop : ∀ u, u.fault = none → Stopped (done u.outcome u)) :
    (regReadScript ptr burst reg n done R₀).Kept c where
  enter {s} hf hstart := by
    subst hstart
    rw [henter]
    exact Script.holds_callRegRead _ hptr hf ⟨.inl rfl, .begin (.refl _) (.refl 1 n _) _⟩
  sent {s r k} hr hf h := by
    obtain ⟨rfl | rfl, h⟩ := h
    · cases hptr.symm.trans hr
      refine ⟨txReady_one h.pointer, fun o => ?_⟩
      rw [hwrite]; split
      · exact Script.holds_callRead (s := s.setOutcome o) hburst hf
          ⟨.inr rfl, (h.setOutcome o).countStart⟩
      · exact regReadScript_done (hstop (s.setOutcome o) hf) (h.returned fun ho => absurd ho ‹_›)
    · exact (not_sends_and_receives hr hburst).elim
  stored {_ r _ _} b hr hi h := by
    obtain ⟨rfl | rfl, h⟩ := h
    · exact (not_sends_and_receives hptr hr).elim
    · cases hburst.symm.trans hr
      exact ⟨.inr rfl, h.putRx b hi⟩
  received {s r k o} hr hf h hfull := by
    obtain ⟨rfl | rfl, h⟩ := h
    · exact (not_sends_and_receives hptr hr).elim
    · cases hburst.symm.trans hr
      rw [hread]
      exact regReadScript_done (hstop (s.setOutcome o) hf) (h.returned hfull)
  again h := by obtain ⟨rfl | rfl, -⟩ := h <;> contradiction
  probed _ _ h := by obtain ⟨rfl | rfl, -⟩ := h <;> contradiction

end

/-! ## `READ_CAL` (R202) -/

theorem regs_calUpdate (o : TxOutcome) (s : State) :
    (calUpdate o s).regs = { s.regs with data := (calUpdate o s).data } := by cases o <;> rfl

/-- C1, and what C2 to C5 make of its result. -/
theorem readCalScript_kept (R₀ : Regs) :
    (regReadScript .c1Ptr .c1Burst Params.regCal 24 (calDone .readCal) R₀).Kept .readCal :=
  regReadScript_kept rfl rfl (fun _ => rfl) (fun _ _ => rfl) (fun _ _ => rfl)
    fun u hf => .inr ⟨(congrArg Regs.fault (regs_calUpdate _ u)).trans hf, rfl⟩

/-- A calibration field is the two bytes it decodes from, the low byte first (20_memory R91). -/
theorem toNat_decodeCal_field {s : State} {k : Nat} {lo hi : Byte} (hk : k < 12)
    (hlo : s.rxByte (2 * k) = some lo) (hhi : s.rxByte (2 * k + 1) = some hi) :
    (s.decodeCal.field k).toNat = lo.toNat + 256 * hi.toNat := by
  have hlt := lo.isLt
  rw [decodeCal_field s hk, State.calField, rxVal_of_rxByte hlo, rxVal_of_rxByte hhi,
    BitVec.toNat_append, ← Nat.shiftLeft_add_eq_or_of_lt hlt, Nat.shiftLeft_eq]
  omega

/-- A failed `READ_CAL` is a no-op on the data registers (R202 C2). -/
theorem calUpdate_of_ne {o : TxOutcome} (h : o ≠ .success) (s : State) : calUpdate o s = s := by
  cases o
  · exact absurd rfl h
  · rfl
  · rfl

/-- A byte that is set is the byte the decoder reads. -/
theorem rxByte_eq_rxVal {s : State} {j : Nat} (h : (s.rxByte j).isSome = true) :
    s.rxByte j = some (s.rxVal j) := by
  obtain ⟨b, hb⟩ := Option.isSome_iff_exists.1 h
  rw [rxVal_of_rxByte hb, hb]

/-- Settles O29: the registers its script ends with, by the outcome of the register read. -/
theorem readCalResult : Obligations.ReadCalResult := by
  unfold Obligations.ReadCalResult
  intro s hs
  obtain ⟨t, ht, ⟨u, ⟨⟨hu, hpointer, hmem⟩, hfull⟩, hregs⟩, hend⟩ :=
    (readCalScript_kept s.regs).exec rfl hs rfl
  have hparams : u.params = s.params := hu.params
  have hdata : u.data = s.data := hu.data
  have hdone : (calDone .readCal u.outcome u).regs = (calUpdate u.outcome u).regs := rfl
  rw [hdone, regs_calUpdate] at hregs
  simp only [State.regs, Regs.mk.injEq] at hregs
  obtain ⟨-, htdata, htmem, htdraws, htready, htout, htfault, -⟩ := hregs
  rw [hparams] at hpointer
  have hrx := rxByte_of_mem htmem
  refine ⟨t, ht, hend (htfault.trans (hu.fault.trans hs.2)), htready.trans hu.ready,
    htdraws.trans hu.draws, (txByte_of_mem htmem 0).trans hpointer, fun x h0 hx => ?_, fun ho => ?_,
    fun ho => ?_⟩
  · rw [htmem]; exact hmem x (by omega) hx
  · rw [htout] at ho
    rw [ho] at htdata
    simp only [hrx]
    refine ⟨hfull ho, u.decodeCal, htdata.trans (by rw [← hdata]; rfl), fun k lo hi => ?_⟩
    exact toNat_decodeCal_field
  · rw [htout] at ho
    rw [htdata, calUpdate_of_ne ho, hdata]

/-! ## `READ_RAW` (R206), which is also the first half of `ACQUIRE` (R244) -/

theorem regs_rawUpdate (o : TxOutcome) (s : State) :
    (rawUpdate o s).regs =
      { s.regs with data := (rawUpdate o s).data, draws := (rawUpdate o s).draws } := by
  cases o <;> rfl

/-- A2 to A4 of `ACQUIRE` end the command, unless a fault stops it. -/
theorem acquireRest_stops (s : State) : Stopped (acquireRest s) := by
  generalize hv : unlessFaulted runCompP (runCompT s) = v
  rw [acquireRest, hv]
  cases hf : v.fault with
  | none => rw [unlessFaulted_of_safe hf]; exact .inr ⟨hf, rfl⟩
  | some f =>
    have hfault : v.faulted = true := by rw [State.faulted, hf]; rfl
    rw [unlessFaulted, if_pos hfault]
    exact .inl (by rw [hf]; exact Option.some_ne_none f)

/-- M1, and what M2 to M4 make of its result; in `ACQUIRE` A2 to A4 follow in the same step. -/
theorem rawScript_kept {c : Instr} (hc : c = .readRaw ∨ c = .acquire) (R₀ : Regs) :
    (regReadScript .m1Ptr .m1Burst Params.regData 6 (rawDone c) R₀).Kept c := by
  refine regReadScript_kept rfl rfl (fun s => ?_) (fun _ _ => rfl) (fun _ _ => rfl) fun u hf => ?_
  · rcases hc with rfl | rfl <;> rfl
  · rcases hc with rfl | rfl
    · exact .inr ⟨(congrArg Regs.fault (regs_rawUpdate _ u)).trans hf, rfl⟩
    · exact acquireRest_stops _

/-- The sample of a failed `READ_RAW` is drawn (R206 M2). -/
theorem rawUpdate_of_ne {o : TxOutcome} (h : o ≠ .success) (s : State) :
    rawUpdate o s = drawRaw s := by
  cases o
  · exact absurd rfl h
  · rfl
  · rfl

/-- What M2 and M3 store (R206): the received sample, or two draws. -/
theorem sampleOf_rawUpdate {s u : State} {reg : Byte} (h : HasRead s.regs reg 6 u) :
    ∃ r, (rawUpdate u.outcome u).data = { s.data with raw := some r, tfineFresh := false } ∧
      ∀ t : State, t.outcome = u.outcome → t.mem = u.mem →
        t.draws = (rawUpdate u.outcome u).draws → Sys2Proof.Claims.SampleOf s t r := by
  have hdata : u.data = s.data := h.reading.regs.data
  have hdraws : u.draws = s.draws := h.reading.regs.draws
  by_cases ho : u.outcome = .success
  · refine ⟨u.decodeRaw, ?_, fun t htout htmem htdraws => ⟨fun _ => ?_, fun hne => ?_⟩⟩
    · rw [ho, ← hdata]; rfl
    · rw [ho] at htdraws
      refine ⟨htdraws.trans hdraws, u.rxVal, fun j hj => ?_, toNat_rawOf .., toNat_rawOf ..⟩
      rw [rxByte_of_mem htmem]; exact rxByte_eq_rxVal (h.full ho j hj)
    · exact absurd (htout.trans ho) hne
  · rw [rawUpdate_of_ne ho]
    refine ⟨{ p := Config.draw 20 s.draws, t := Config.draw 20 (s.draws + 1) }, ?_,
      fun t htout _ htdraws => ⟨fun hs => ?_, fun _ => ⟨?_, rfl⟩⟩⟩
    · rw [← hdata, ← hdraws]; rfl
    · exact absurd (htout.symm.trans hs) ho
    · rw [htdraws, ← hdraws]; rfl

/-- Settles O31: the registers its script ends with, by the outcome of the register read. -/
theorem readRawResult : Obligations.ReadRawResult := by
  unfold Obligations.ReadRawResult
  intro s hs
  obtain ⟨t, ht, ⟨u, hread, hregs⟩, hend⟩ := (rawScript_kept (.inl rfl) s.regs).exec rfl hs rfl
  obtain ⟨r, hraw, hsample⟩ := sampleOf_rawUpdate hread
  obtain ⟨⟨hu, hpointer, hmem⟩, -⟩ := hread
  have hparams : u.params = s.params := hu.params
  have hdone : (rawDone .readRaw u.outcome u).regs = (rawUpdate u.outcome u).regs := rfl
  rw [hdone, regs_rawUpdate] at hregs
  simp only [State.regs, Regs.mk.injEq] at hregs
  obtain ⟨-, htdata, htmem, htdraws, htready, htout, htfault, -⟩ := hregs
  rw [hparams] at hpointer
  refine ⟨t, r, ht, hend (htfault.trans (hu.fault.trans hs.2)), htready.trans hu.ready,
    (txByte_of_mem htmem 0).trans hpointer, htdata.trans hraw, fun x h0 hx => ?_,
    hsample t htout htmem htdraws⟩
  rw [htmem]; exact hmem x (by omega) hx

end Sys2Proof.Machine
end

section
/-! SUPPORT. The sensor family: `INIT` on any bus (41_sensor R210–R213; O32). -/

namespace Sys2Proof.Machine

/-! ## The identity (R210 I4, R211) -/

/-- The identity of a failed read is drawn. -/
theorem idUpdate_of_ne {o : TxOutcome} (h : o ≠ .success) (s : State) :
    idUpdate o s = s.afterDraw.setData { s.data with lastId := some (s.drawn 8) } := by
  cases o
  · exact absurd rfl h
  · rfl
  · rfl

/-- What I4 and I5 record: the received byte, or a draw. -/
theorem idUpdate_records {R₀ : Regs} {reg : Byte} {u : State} (h : HasRead R₀ reg 1 u) :
    ∃ id, (idUpdate u.outcome u).regs =
        { u.regs with
          data := { u.data with lastId := some id }, draws := (idUpdate u.outcome u).draws } ∧
      (u.outcome = .success → (idUpdate u.outcome u).draws = u.draws ∧ u.rxByte 0 = some id) ∧
      (u.outcome ≠ .success →
        (idUpdate u.outcome u).draws = u.draws + 1 ∧ id = Config.draw 8 u.draws) := by
  by_cases ho : u.outcome = .success
  · exact ⟨u.rxVal 0, by rw [ho]; rfl,
      fun _ => ⟨by rw [ho]; rfl, rxByte_eq_rxVal (h.full ho 0 Nat.one_pos)⟩,
      fun hne => absurd ho hne⟩
  · rw [idUpdate_of_ne ho]
    exact ⟨u.drawn 8, rfl, fun hs => absurd hs ho, fun _ => ⟨rfl, rfl⟩⟩

/-- After I5 of an `INIT` issued in `R₀` (R210): `id` is the compared byte, received or drawn. -/
structure Identified (R₀ : Regs) (id : Byte) (R : Regs) : Prop where
  params : R.params = R₀.params
  fault : R.fault = R₀.fault
  ready : R.ready = true
  data : R.data = { R₀.data with lastId := some id }
  pointer : R.tx 0 = some R₀.params.regId
  received : R.outcome = .success → R.draws = R₀.draws ∧ R.rx 0 = some id
  drawn : R.outcome ≠ .success → R.draws = R₀.draws + 1 ∧ id = Config.draw 8 R₀.draws
  mem : KeptOutside 1 1 R₀.mem R.mem
  starts : R₀.starts + 2 ≤ R.starts

theorem Identified.draws {R₀ R : Regs} {id : Byte} (h : Identified R₀ id R) :
    R.draws = R₀.draws ∨ R.draws = R₀.draws + 1 ∧ id = Config.draw 8 R₀.draws := by
  by_cases ho : R.outcome = .success
  · exact .inl (h.received ho).1
  · exact .inr (h.drawn ho)

/-- The identity read that has returned gives the compared byte. -/
theorem HasRead.identified {R₀ : Regs} {u : State}
    (h : HasRead { R₀ with ready := true } u.params.regId 1 u)
    (hstarts : R₀.starts + 2 ≤ u.regs.starts) :
    ∃ id, Identified R₀ id (idUpdate u.outcome u).regs := by
  obtain ⟨id, hregs, hreceived, hdrawn⟩ := idUpdate_records h
  obtain ⟨⟨hu, hpointer, hmem⟩, -⟩ := h
  have hparams : u.params = R₀.params := hu.params
  have hdraws : u.draws = R₀.draws := hu.draws
  rw [hdraws] at hreceived hdrawn
  rw [hparams] at hpointer
  refine ⟨id, ?_⟩
  rw [hregs]
  exact ⟨hu.params, hu.fault, hu.ready,
    congrArg (fun d : Readings => { d with lastId := some id }) hu.data, hpointer, hreceived, hdrawn,
    hmem, hstarts⟩

/-! ## Beyond the identity (R210 I7, I8) -/

/-- The data registers once `CHIP_ID` has been recorded, before `READ_CAL` returns. -/
def Readings.identified (d : Readings) : Readings := { d with lastId := some Config.chipId }

/-- What stays so after I6 of an `INIT` issued in `R₀`; a failed identity read has drawn `CHIP_ID`. -/
structure PastIdentity (R₀ R : Regs) : Prop where
  params : R.params = R₀.params
  fault : R.fault = R₀.fault
  ready : R.ready = true
  draws : R.draws = R₀.draws ∨ R.draws = R₀.draws + 1 ∧ Config.draw 8 R₀.draws = Config.chipId
  mem : KeptOutside 2 24 R₀.mem R.mem

theorem PastIdentity.transfers {R₀ R R' : Regs} (h : PastIdentity R₀ R) (ht : Transfers R R')
    (hmem : KeptOutside 2 24 R₀.mem R'.mem) : PastIdentity R₀ R' where
  params := ht.params.trans h.params
  fault := ht.fault.trans h.fault
  ready := ht.ready.trans h.ready
  draws := by rw [ht.draws]; exact h.draws
  mem := hmem

/-- While `READ_CAL` runs in an `INIT` issued in `R₀` (C1). -/
structure Loading (R₀ R : Regs) : Prop where
  past : PastIdentity R₀ R
  data : R.data = R₀.data.identified
  pointer : R.tx 0 = some R.params.regCal
  starts : R₀.starts + 3 ≤ R.starts

theorem Loading.setOutcome {R₀ : Regs} {s : State} (h : Loading R₀ s.regs) (o : TxOutcome) :
    Loading R₀ (s.setOutcome o).regs :=
  ⟨h.past.transfers rfl h.past.mem, h.data, h.pointer, h.starts⟩

/-- The calibration as it was, or the whole set that `RXBUF[0..23]` holds (R213). -/
def CalStands (R₀ R : Regs) : Prop :=
  R.data = R₀.data.identified ∨
    ∃ c, R.data = { R₀.data.identified with cal := some c, tfineFresh := false } ∧
      ∀ k, k < 12 → ∃ lo hi, R.rx (2 * k) = some lo ∧ R.rx (2 * k + 1) = some hi ∧
        (c.field k).toNat = lo.toNat + 256 * hi.toNat

/-- `READ_CAL` touches neither the identity nor the measurement. -/
theorem CalStands.keeps {R₀ R : Regs} (h : CalStands R₀ R) :
    R.data.lastId = some Config.chipId ∧ R.data.raw = R₀.data.raw ∧ R.data.tfine = R₀.data.tfine ∧
      R.data.temp = R₀.data.temp ∧ R.data.pres = R₀.data.pres := by
  rcases h with hdata | ⟨c, hdata, -⟩
  · rw [hdata]; exact ⟨rfl, rfl, rfl, rfl, rfl⟩
  · rw [hdata]; exact ⟨rfl, rfl, rfl, rfl, rfl⟩

/-- The register write of `v` to `r` in the `CONFIGURE` of an `INIT` issued in `R₀`, after at least
`k` `start()` calls. -/
structure Configuring (R₀ : Regs) (r v : Byte) (k : Nat) (R : Regs) : Prop where
  past : PastIdentity R₀ R
  cal : CalStands R₀ R
  reg : R.tx 0 = some r
  value : R.tx 1 = some v
  starts : R₀.starts + k ≤ R.starts

/-- A register write stores nothing in `RXBUF`. -/
theorem putTx_pair_rxByte (s : State) (r v : Byte) (j : Nat) :
    ((s.putTx 0 r).putTx 1 v).rxByte j = s.rxByte j :=
  (putTx_rxByte _ v (by decide) j).trans (putTx_rxByte s r (by decide) j)

theorem Configuring.begin {R₀ : Regs} {s : State} {k : Nat} (hpast : PastIdentity R₀ s.regs)
    (hcal : CalStands R₀ s.regs) (hstarts : R₀.starts + k ≤ s.regs.starts) (r v : Byte) :
    Configuring R₀ r v (k + 1) ((s.putTx 0 r).putTx 1 v).countStart.regs where
  past := hpast.transfers rfl
    ((hpast.mem.putTx r (by decide : 0 < 2)).putTx v (by decide : 1 < 2))
  cal := hcal.imp_right fun ⟨c, hdata, hfields⟩ => ⟨c, hdata, fun k hk => by
    obtain ⟨lo, hi, hlo, hhi, hfield⟩ := hfields k hk
    have hrx := putTx_pair_rxByte s r v
    exact ⟨lo, hi, (hrx _).trans hlo, (hrx _).trans hhi, hfield⟩⟩
  reg := (putTx_pair s r v).1
  value := (putTx_pair s r v).2
  starts := Nat.succ_le_succ hstarts

theorem Configuring.setOutcome {R₀ : Regs} {s : State} {r v : Byte} {k : Nat}
    (h : Configuring R₀ r v k s.regs) (o : TxOutcome) :
    Configuring R₀ r v k (s.setOutcome o).regs :=
  ⟨h.past.transfers rfl h.past.mem, h.cal, h.reg, h.value, h.starts⟩

/-! ## The script -/

/-- How an `INIT` issued in `R₀` ends (R210): at I2, at I6, or at I9. -/
inductive InitEnd (R₀ R : Regs) : Prop where
  | notReady (h : R = { R₀ with ready := false, starts := R.starts })
  | mismatch (id : Byte) (hid : id ≠ Config.chipId) (h : Identified R₀ id R)
  | configured (h : Configuring R₀ R.params.regConfig Config.configVal 5 R)

/-- I1 to I9. The `start()` calls of the probe, of I3, C1, G1 and G2 are one each at least. -/
def initScript (R₀ : Regs) : Script where
  start := R₀
  held
    | .i1, R => R = { R₀ with starts := R.starts } ∧ R₀.starts + 1 ≤ R.starts
    | .i3Ptr, R => Reading { R₀ with ready := true } R.params.regId 1 R ∧ R₀.starts + 2 ≤ R.starts
    | .i3Burst, R => Reading { R₀ with ready := true } R.params.regId 1 R ∧ R₀.starts + 2 ≤ R.starts
    | .c1Ptr, R => Loading R₀ R
    | .c1Burst, R => Loading R₀ R
    | .g1, R => Configuring R₀ R.params.regCtrlMeas Config.ctrlMeasVal 4 R
    | .g2, R => Configuring R₀ R.params.regConfig Config.configVal 5 R
    | .top, _ => False
    | .m1Ptr, _ => False
    | .m1Burst, _ => False
  ended := InitEnd R₀

section
variable {R₀ : Regs} {s u : State}

/-- I4 to I7: `CHIP_ID` goes on to C1, any other byte ends the command. -/
theorem initScript_identity (hf : u.fault = none)
    (h : HasRead { R₀ with ready := true } u.params.regId 1 u)
    (hstarts : R₀.starts + 2 ≤ u.regs.starts) :
    (initScript R₀).Holds .init (idDone .init u.outcome u) := by
  obtain ⟨id, hident⟩ := h.identified hstarts
  have hsafe : (idUpdate u.outcome u).fault = none :=
    hident.fault.trans (h.reading.regs.fault.symm.trans hf)
  have hlast : (idUpdate u.outcome u).data.lastId = some id := congrArg Readings.lastId hident.data
  unfold idDone; dsimp only; rw [hlast]; split
  · rename_i hchip
    obtain rfl : id = Config.chipId := Option.some.inj hchip
    have hkept : KeptOutside 2 24 R₀.mem (idUpdate u.outcome u).mem :=
      hident.mem.widen (by decide) (by decide)
    have hpast : PastIdentity R₀ (idUpdate u.outcome u).regs :=
      ⟨hident.params, hident.fault, hident.ready,
        hident.draws.imp_right (And.imp_right Eq.symm), hkept⟩
    exact Script.holds_callRegRead _ rfl hsafe
      ⟨hpast.transfers rfl (hkept.putTx _ (by decide : 0 < 2)), hident.data, putTx_pointer _ _,
        Nat.succ_le_succ hident.starts⟩
  · rename_i hother
    exact Script.holds_endCmd hsafe (.mismatch id (fun he => hother (congrArg some he)) hident)

/-- C2 to C5, then I8: loaded or failed, G1 is next. -/
theorem initScript_calibration (hf : u.fault = none) (h : Loading R₀ u.regs)
    (hfull : u.outcome = .success → ∀ j, j < 24 → (u.rxByte j).isSome = true) :
    (initScript R₀).Holds .init (calDone .init u.outcome u) := by
  have hregs := regs_calUpdate u.outcome u
  have hcal : CalStands R₀ (calUpdate u.outcome u).regs := by
    by_cases ho : u.outcome = .success
    · rw [ho]
      refine .inr ⟨u.decodeCal, ?_, fun k hk => ?_⟩
      · exact congrArg
          (fun d : Readings => { d with cal := some u.decodeCal, tfineFresh := false }) h.data
      · have hlo := rxByte_eq_rxVal (hfull ho (2 * k) (by omega))
        have hhi := rxByte_eq_rxVal (hfull ho (2 * k + 1) (by omega))
        exact ⟨_, _, hlo, hhi, toNat_decodeCal_field hk hlo hhi⟩
    · rw [calUpdate_of_ne ho]; exact .inl h.data
  have hpast : PastIdentity R₀ (calUpdate u.outcome u).regs := by
    rw [hregs]; exact ⟨h.past.params, h.past.fault, h.past.ready, h.past.draws, h.past.mem⟩
  have hsafe : (calUpdate u.outcome u).fault = none := (congrArg Regs.fault hregs).trans hf
  exact Script.holds_callRegWrite _ _ rfl hsafe
    (.begin (k := 3) hpast hcal (h.starts.trans (congrArg Regs.starts hregs).ge) _ _)

end

theorem initScript_kept (R₀ : Regs) : (initScript R₀).Kept .init where
  enter {s} hf hstart := by
    subst hstart
    rw [enter]; unfold callProbe; split
    · exact Script.holds_endCmd (s := s.setReady false) hf (.notReady rfl)
    · exact .inr ⟨hf, rfl, ⟨rfl, Nat.le_refl _⟩, .probe .start⟩
  sent {s r n} hr hf h := by
    cases r <;> cases hr
    case i3Ptr =>
      obtain ⟨h, hstarts⟩ := h
      refine ⟨txReady_one h.pointer, fun o => ?_⟩
      rw [returnWrite]; split
      · exact Script.holds_callRead (s := s.setOutcome o) rfl hf
          ⟨(h.setOutcome o).countStart, hstarts.trans (Nat.le_succ _)⟩
      · exact initScript_identity (u := s.setOutcome o) hf (h.returned fun ho => absurd ho ‹_›)
          hstarts
    case c1Ptr =>
      refine ⟨txReady_one h.pointer, fun o => ?_⟩
      have hout := h.setOutcome o
      rw [returnWrite]; split
      · exact Script.holds_callRead (s := s.setOutcome o) rfl hf
          ⟨hout.past.transfers rfl hout.past.mem, hout.data, hout.pointer,
            hout.starts.trans (Nat.le_succ _)⟩
      · exact initScript_calibration (u := s.setOutcome o) hf hout fun ho => absurd ho ‹_›
    case g1 =>
      refine ⟨txReady_two h.reg h.value, fun o => Script.holds_callRegWrite _ _ rfl hf ?_⟩
      exact .begin (k := 4) (h.setOutcome o).past h.cal h.starts _ _
    case g2 =>
      refine ⟨txReady_two h.reg h.value, fun o => ?_⟩
      exact Script.holds_endCmd (s := s.setOutcome o) hf (.configured (h.setOutcome o))
    case m1Ptr => exact False.elim h
  stored {s r n i} b hr hi h := by
    cases r <;> cases hr
    case i3Burst => exact ⟨h.1.putRx b hi, h.2⟩
    case c1Burst =>
      exact ⟨h.past.transfers rfl (h.past.mem.putRx b hi), h.data,
        (putRx_pointer s b i).trans h.pointer, h.starts⟩
    case m1Burst => exact False.elim h
  received {s r n o} hr hf h hfull := by
    cases r <;> cases hr
    case i3Burst =>
      exact initScript_identity (u := s.setOutcome o) hf (h.1.returned hfull) h.2
    case c1Burst =>
      exact initScript_calibration (u := s.setOutcome o) hf (h.setOutcome o) hfull
    case m1Burst => exact False.elim h
  again {s} h := by
    obtain ⟨hregs, hstarts⟩ := h
    refine ⟨?_, hstarts.trans (Nat.le_succ _)⟩
    rw [regs_countStart, hregs]
  probed {s} ready hf h := by
    obtain ⟨hregs, hstarts⟩ := h
    cases ready with
    | false =>
      refine Script.holds_endCmd (s := s.setReady false) hf (.notReady ?_)
      rw [regs_setReady, hregs]
    | true =>
      have hbase : Transfers { R₀ with ready := true } (s.setReady true).regs := by
        rw [Transfers, regs_setReady, hregs]
      have hmem : s.mem = R₀.mem := congrArg Regs.mem hregs
      refine Script.holds_callRegRead (s := s.setReady true) _ rfl hf
        ⟨.begin hbase ?_ _, Nat.succ_le_succ hstarts⟩
      exact hmem ▸ KeptOutside.refl 1 1 s.mem

/-- Settles O32: its script ends in one of three ways. -/
theorem initResult : Obligations.InitResult := by
  unfold Obligations.InitResult
  intro s hs
  obtain ⟨t, ht, hinit, hend⟩ := (initScript_kept s.regs).exec rfl hs rfl
  refine ⟨t, ht, ?_⟩
  cases hinit with
  | notReady hregs =>
    simp only [State.regs, Regs.mk.injEq] at hregs
    obtain ⟨-, hdata, hmem, hdraws, hready, hout, hfault, -⟩ := hregs
    refine ⟨hend (hfault.trans hs.2), by rw [hdata], by rw [hdata], by rw [hdata], by rw [hdata],
      .inl hdraws, fun x _ _ _ => by rw [hmem], fun _ => ⟨hdata, hout, fun x => by rw [hmem]⟩,
      fun hr => (Bool.false_ne_true (hready.symm.trans hr)).elim⟩
  | mismatch id hne h =>
    have hdata : t.data = { s.data with lastId := some id } := h.data
    refine ⟨hend (h.fault.trans hs.2), by rw [hdata], by rw [hdata], by rw [hdata], by rw [hdata],
      h.draws.imp_right fun ⟨hdrawn, hid⟩ => ⟨hdrawn, h.ready, by rw [hdata, hid]; rfl⟩,
      fun x h0 _ hx => h.mem x (by omega) (by omega),
      fun hr => (Bool.false_ne_true (hr.symm.trans h.ready)).elim, fun _ => ⟨id, by rw [hdata],
      fun _ => ⟨hdata, h.pointer, h.received, h.drawn⟩, fun he => absurd he hne⟩⟩
  | configured h =>
    obtain ⟨⟨hparams, hfault, hready, hdraws, hmem⟩, hcal, hreg, hvalue, hstarts⟩ := h
    obtain ⟨hid, hraw, htfine, htemp, hpres⟩ := hcal.keeps
    rw [hparams] at hreg
    refine ⟨hend (hfault.trans hs.2), hraw, htfine, htemp, hpres,
      hdraws.imp_right fun ⟨hdrawn, hchip⟩ =>
        ⟨hdrawn, hready, hid.trans (congrArg some hchip.symm)⟩,
      fun x h0 h1 hx => hmem x (by omega) hx,
      fun hr => (Bool.false_ne_true (hr.symm.trans hready)).elim, fun _ => ⟨0x58, hid,
      fun hne => absurd rfl hne, fun _ => ⟨hreg, hvalue, hstarts, hcal⟩⟩⟩

end Sys2Proof.Machine
end

section
/-! SUPPORT. The sensor family: the steps of `INIT` from its identity read on (41_sensor R210, R211;
O33). -/

namespace Sys2Proof.Machine

/-! ## The lines that go on -/

theorem initWrites_callRegRead (ret : Ret) (r : Byte) {s : State} (hf : s.fault = none) :
    Sys2Proof.Claims.InitWrites ret 1 r (callRegRead .init ret r s) := by
  rw [callRegRead_eq]; exact ⟨rfl, putTx_pointer s r, rfl, hf⟩

theorem initWrites_callRegWrite (ret : Ret) (r v : Byte) {s : State} (hf : s.fault = none) :
    Sys2Proof.Claims.InitWrites ret 2 r (callRegWrite .init ret r v s) ∧
      (callRegWrite .init ret r v s).txByte 1 = some v := by
  obtain ⟨hreg, hvalue⟩ := putTx_pair s r v
  rw [callRegWrite_eq]; exact ⟨⟨rfl, hreg, rfl, hf⟩, hvalue⟩

theorem callRegWrite_keeps (c : Instr) (ret : Ret) (r v : Byte) (s : State) :
    (callRegWrite c ret r v s).data = s.data ∧ (callRegWrite c ret r v s).outcome = s.outcome := by
  rw [callRegWrite_eq]; exact ⟨rfl, rfl⟩

theorem callRegRead_keeps (c : Instr) (ret : Ret) (r : Byte) (s : State) :
    (callRegRead c ret r s).data = s.data ∧ (callRegRead c ret r s).outcome = s.outcome ∧
      (callRegRead c ret r s).draws = s.draws ∧
      ∀ j, (callRegRead c ret r s).rxByte j = s.rxByte j := by
  rw [callRegRead_eq]
  exact ⟨rfl, rfl, rfl, putTx_rxByte s r (j := 0) (by decide)⟩

/-- I6 and I7: `CHIP_ID` goes on to C1, any other byte ends the command; nothing else changes. -/
theorem idDone_init {o : TxOutcome} {id : Byte} {s : State} (hf : s.fault = none)
    (hid : (idUpdate o s).data.lastId = some id) :
    (idDone .init o s).data = (idUpdate o s).data ∧ (idDone .init o s).outcome = s.outcome ∧
      (idDone .init o s).draws = (idUpdate o s).draws ∧
      (∀ j, (idDone .init o s).rxByte j = s.rxByte j) ∧
      (if id = 0x58 then
          Sys2Proof.Claims.InitWrites .c1Ptr 1 s.params.regCal (idDone .init o s)
        else (idDone .init o s).seq = .idle ∧ (idDone .init o s).fault = none) := by
  have hsame : (idUpdate o s).outcome = s.outcome ∧ (idUpdate o s).params = s.params ∧
      (idUpdate o s).mem = s.mem ∧ (idUpdate o s).fault = s.fault := by
    cases o <;> exact ⟨rfl, rfl, rfl, rfl⟩
  obtain ⟨hout, hparams, hmem, hfault⟩ := hsame
  have hrx := rxByte_of_mem hmem
  have hsafe := hfault.trans hf
  by_cases hchip : id = 0x58
  · have hdone : idDone .init o s = callRegRead .init .c1Ptr s.params.regCal (idUpdate o s) := by
      rw [idDone, hid, hchip, ← hparams]; rfl
    obtain ⟨hdata, hout', hdraws, hrx'⟩ :=
      callRegRead_keeps .init .c1Ptr s.params.regCal (idUpdate o s)
    rw [hdone, if_pos hchip]
    exact ⟨hdata, hout'.trans hout, hdraws, fun j => (hrx' j).trans (hrx j),
      initWrites_callRegRead _ _ hsafe⟩
  · have hdone : idDone .init o s = endCmd (idUpdate o s) := by
      rw [idDone, hid]; exact if_neg fun he => hchip (Option.some.inj he)
    rw [hdone, if_neg hchip]
    exact ⟨rfl, hout, rfl, hrx, rfl, hsafe⟩

/-! ## The steps -/

section
variable {s : State} {o : TxOutcome} {res : Option Obs}

/-- The step after the last byte of a burst (R153 RD13 to RD15). -/
theorem seqStep_lastByte {c : Instr} {r : Ret} {a : Addr7} {n i : Nat} {obs : Obs}
    (hq : s.seq = .polled c r (.rd11 a n i) (some obs)) (hlast : ¬i + 1 < n) :
    seqStep s = returnRead c r .success (takeByte n i s.countSeqStep) := by
  rw [seqStep_polled hq]; exact if_neg hlast

/-- A failed identity read, whichever half failed, is decided at its `stop()`. -/
theorem seqStep_identityFailed (ho : o ≠ .success)
    (hq : s.seq = .polled .init .i3Burst (.rdStop o) res ∨
      s.seq = .polled .init .i3Ptr (.wStop o) res) :
    seqStep s = idDone .init o (s.countSeqStep.setOutcome o) := by
  rcases hq with hq | hq
  · rw [seqStep_polled hq]; rfl
  · rw [seqStep_polled hq]; exact if_neg ho

/-- So is a failed read of the calibration block. -/
theorem seqStep_calibrationFailed (ho : o ≠ .success)
    (hq : s.seq = .polled .init .c1Burst (.rdStop o) res ∨
      s.seq = .polled .init .c1Ptr (.wStop o) res) :
    seqStep s = calDone .init o (s.countSeqStep.setOutcome o) := by
  rcases hq with hq | hq
  · rw [seqStep_polled hq]; rfl
  · rw [seqStep_polled hq]; exact if_neg ho

end

/-- `READ_CAL` in `INIT` goes on to G1, whatever it loaded (R210 I8). -/
theorem calDone_init {o : TxOutcome} {s : State} (hf : s.fault = none) :
    (calDone .init o s).data = (calUpdate o s).data ∧ (calDone .init o s).outcome = s.outcome ∧
      Sys2Proof.Claims.InitWrites .g1 2 s.params.regCtrlMeas (calDone .init o s) ∧
      (calDone .init o s).txByte 1 = some 0x27 := by
  have hregs := regs_calUpdate o s
  have hparams : (calUpdate o s).params = s.params := congrArg Regs.params hregs
  have hdone : calDone .init o s =
      callRegWrite .init .g1 s.params.regCtrlMeas Config.ctrlMeasVal (calUpdate o s) := by
    rw [← hparams]; rfl
  obtain ⟨hdata, hout⟩ := callRegWrite_keeps .init .g1 s.params.regCtrlMeas Config.ctrlMeasVal
    (calUpdate o s)
  rw [hdone]
  exact ⟨hdata, hout.trans (congrArg Regs.outcome hregs),
    initWrites_callRegWrite _ _ _ ((congrArg Regs.fault hregs).trans hf)⟩

/-- Settles O33: each clause is what the line its step comes to does. -/
theorem initGoesOnStepByStep : Obligations.InitGoesOnStepByStep := by
  unfold Obligations.InitGoesOnStepByStep
  intro s hf
  have htaken : ∀ n i, (takeByte n i s.countSeqStep).fault = none ∧
      (takeByte n i s.countSeqStep).data = s.data ∧ (takeByte n i s.countSeqStep).draws = s.draws ∧
      (takeByte n i s.countSeqStep).params = s.params := fun n i => by
    rw [takeByte_eq]; exact ⟨hf, rfl, rfl, rfl⟩
  refine ⟨fun obs hq => ?identity, fun o res ho hq => ?drawn, fun obs hq => ?loaded,
    fun o res ho hq => ?failed, fun o res hq => ?g1, fun o res hq => ?g2⟩
  case identity =>
    obtain ⟨hsafe, hdata, hdraws, hparams⟩ := htaken 1 0
    have hrx : (takeByte 1 0 s.countSeqStep).rxByte 0 = some s.bus.dr :=
      (takeByte_reads s.countSeqStep 1 (by decide)).1
    have hval : (takeByte 1 0 s.countSeqStep).rxVal 0 = s.bus.dr := rxVal_of_rxByte hrx
    obtain ⟨hupdate, hout, hdrawn, hstored, hnext⟩ := idDone_init (o := .success)
      (s := (takeByte 1 0 s.countSeqStep).setOutcome .success) hsafe (congrArg some hval)
    rw [seqStep_lastByte hq (by decide), ← hdata, ← hdraws, ← hparams, ← hval]
    exact ⟨hupdate, (hstored 0).trans (hrx.trans (congrArg some hval.symm)), hout, hdrawn,
      hval ▸ hnext⟩
  case drawn =>
    have hstep := idDone_init (o := o) (id := Config.draw 8 s.draws)
      (s := s.countSeqStep.setOutcome o) hf (by rw [idUpdate_of_ne ho]; rfl)
    rw [idUpdate_of_ne ho] at hstep
    rw [seqStep_identityFailed ho hq]
    obtain ⟨hdata, hout, hdraws, -, hnext⟩ := hstep
    exact ⟨hdata, hdraws, hout, hnext⟩
  case loaded =>
    obtain ⟨hsafe, hdata, -, hparams⟩ := htaken 24 23
    rw [seqStep_lastByte hq (by decide)]
    obtain ⟨hcal, hout, hnext⟩ := calDone_init (o := .success)
      (s := (takeByte 24 23 s.countSeqStep).setOutcome .success) hsafe
    rw [← hdata, ← hparams]
    exact ⟨⟨_, hcal⟩, hout, hnext⟩
  case failed =>
    rw [seqStep_calibrationFailed ho hq]
    have hstep := calDone_init (o := o) (s := s.countSeqStep.setOutcome o) hf
    rw [calUpdate_of_ne ho] at hstep
    exact hstep
  case g1 =>
    rw [seqStep_polled hq]
    obtain ⟨hdata, hout⟩ := callRegWrite_keeps .init .g2 s.params.regConfig Config.configVal
      (s.countSeqStep.setOutcome o)
    exact ⟨hdata, hout, initWrites_callRegWrite _ _ _ (s := s.countSeqStep.setOutcome o) hf⟩
  case g2 => rw [seqStep_polled hq]; exact ⟨rfl, rfl, rfl, hf⟩

end Sys2Proof.Machine
end

section
/-! SUPPORT. The sensor family: only a command that runs `READ_CAL` changes the calibration
registers (41_sensor R203, R213; O14). -/

namespace Sys2Proof.Machine

/-! ## Lines from which no line of `READ_CAL` is reached -/

/-- The lines of the commands that do not run `READ_CAL`. -/
def Ret.neverLoads : Ret → Bool
  | .top | .g1 | .g2 | .m1Ptr | .m1Burst => true
  | .c1Ptr | .c1Burst | .i1 | .i3Ptr | .i3Burst => false

/-- The sequencer is at no place of `READ_CAL` or `INIT`. -/
def Seq.neverLoads : Seq → Prop
  | .idle => True
  | .entry c => c ≠ .readCal ∧ c ≠ .init
  | .poll _ r _ _ => r.neverLoads = true
  | .polled _ r _ _ => r.neverLoads = true

/-- The calibration is still `cal`, and the command running does not load one. -/
def CalKept (cal : Option CalSet) (s : State) : Prop := s.data.cal = cal ∧ s.seq.neverLoads

section
variable {cal : Option CalSet} {s t : State} {c : Instr} {r : Ret}

theorem CalKept.of_same (h : CalKept cal s) (hcal : t.data.cal = s.data.cal) (hq : t.seq = s.seq) :
    CalKept cal t := ⟨hcal.trans h.1, hq ▸ h.2⟩

theorem CalKept.endCmd (h : CalKept cal s) : CalKept cal (endCmd s) := ⟨h.1, trivial⟩

theorem CalKept.callWrite (h : CalKept cal s) (hr : r.neverLoads = true) (a : Addr7) (n : Nat) :
    CalKept cal (callWrite c r a n s) := by
  unfold Machine.callWrite; split
  · exact h
  · exact ⟨h.1, hr⟩

theorem CalKept.sendByte (h : CalKept cal s) (hr : r.neverLoads = true) (a : Addr7) (n i : Nat) :
    CalKept cal (sendByte c r a n i s) := by
  unfold Machine.sendByte; split
  · split
    · exact ⟨h.1, hr⟩
    · exact h
  · exact ⟨h.1, hr⟩

theorem cal_runCompT (s : State) : (runCompT s).data.cal = s.data.cal := by
  rcases runCompT_cases s with ⟨-, h⟩ | ⟨-, -, h⟩ | ⟨_, _, -, -, h⟩ <;> rw [h] <;> rfl

theorem cal_runCompP (s : State) : (runCompP s).data.cal = s.data.cal := by
  rcases runCompP_cases s with ⟨-, h⟩ | ⟨-, -, h⟩ | ⟨-, -, -, h⟩ | ⟨-, -, -, -, h⟩ |
    ⟨_, _, _, -, -, -, -, h⟩ <;> rw [h] <;> rfl

theorem CalKept.runCompT (h : CalKept cal s) : CalKept cal (runCompT s) :=
  h.of_same (cal_runCompT s) (seq_runCompT s)

theorem CalKept.runCompP (h : CalKept cal s) : CalKept cal (runCompP s) :=
  h.of_same (cal_runCompP s) (seq_runCompP s)

theorem CalKept.acquireRest (h : CalKept cal s) : CalKept cal (acquireRest s) :=
  of_unlessFaulted CalKept.endCmd (of_unlessFaulted CalKept.runCompP h.runCompT)

theorem CalKept.rawDone (h : CalKept cal s) (o : TxOutcome) : CalKept cal (rawDone c o s) := by
  have hupdate : CalKept cal (rawUpdate o s) := by cases o <;> exact h
  unfold Machine.rawDone; split
  · exact hupdate.acquireRest
  · exact hupdate.endCmd

theorem CalKept.returnWrite (h : CalKept cal s) (hr : r.neverLoads = true) (o : TxOutcome) :
    CalKept cal (returnWrite c r o s) := by
  have hout : CalKept cal (s.setOutcome o) := h
  cases r <;> simp only [Machine.returnWrite]
  case g1 => exact CalKept.callWrite (s := (((s.setOutcome o).putTx 0 _).putTx 1 _)) hout rfl _ _
  case m1Ptr =>
    split
    · exact ⟨h.1, rfl⟩
    · exact hout.rawDone o
  case top | g2 | m1Burst => exact hout.endCmd
  all_goals exact absurd hr Bool.false_ne_true

theorem CalKept.returnRead (h : CalKept cal s) (hr : r.neverLoads = true) (o : TxOutcome) :
    CalKept cal (returnRead c r o s) := by
  have hout : CalKept cal (s.setOutcome o) := h
  cases r <;> simp only [Machine.returnRead]
  case m1Burst => exact hout.rawDone o
  case top | g1 | g2 | m1Ptr => exact hout.endCmd
  all_goals exact absurd hr Bool.false_ne_true

theorem CalKept.returnProbe (h : CalKept cal s) (hr : r.neverLoads = true) (ready : Bool) :
    CalKept cal (returnProbe c r ready s) := by
  cases r
  case top | g1 | g2 | m1Ptr | m1Burst => exact ⟨h.1, trivial⟩
  all_goals exact absurd hr Bool.false_ne_true

theorem CalKept.nextAttempt (h : CalKept cal s) (hr : r.neverLoads = true) (a : Addr7) (m k : Nat) :
    CalKept cal (nextAttempt c r a m k s) := by
  unfold Machine.nextAttempt; split
  · exact ⟨h.1, hr⟩
  · exact h.returnProbe hr _

/-! ## One step -/

theorem CalKept.resume (h : CalKept cal s) (hr : r.neverLoads = true) (pt : Point)
    (res : Option Obs) : CalKept cal (resume c r pt res s) := by
  cases pt <;> simp only [Machine.resume]
  case s2 | p2 => exact ⟨h.1, trivial⟩
  case w1 | rd2 => split <;> exact ⟨h.1, hr⟩
  case w4 =>
    unfold afterW4; split
    · exact ⟨h.1, hr⟩
    · split
      · exact ⟨h.1, hr⟩
      · exact CalKept.sendByte (s := s.onBus _) h hr _ _ _
  case w10 =>
    split
    · exact h.sendByte hr _ _ _
    · exact ⟨h.1, hr⟩
  case wStop => exact h.returnWrite hr _
  case rd5 =>
    unfold afterRd5; split
    · exact ⟨h.1, hr⟩
    · split <;> exact ⟨h.1, hr⟩
  case rd11 n i =>
    have htake : CalKept cal (takeByte n i s) := by rw [takeByte_eq]; exact h
    unfold afterRd11; split
    · exact ⟨h.1, hr⟩
    · split
      · exact ⟨htake.1, hr⟩
      · exact htake.returnRead hr _
  case rdStop => exact h.returnRead hr _
  case q2 =>
    split
    · exact ⟨h.1, hr⟩
    · exact h.nextAttempt hr _ _ _
  case q5 =>
    unfold afterQ5; split
    · exact ⟨h.1, hr⟩
    · split <;> exact ⟨h.1, hr⟩
  case qStop =>
    split
    · exact h.returnProbe hr _
    · exact h.nextAttempt hr _ _ _

theorem CalKept.enter (h : CalKept cal s) (hload : c ≠ .readCal) (hinit : c ≠ .init) :
    CalKept cal (enter c s) := by
  cases c <;> simp only [Machine.enter]
  case start | stop => exact ⟨h.1, rfl⟩
  case write => exact h.callWrite rfl _ _
  case read =>
    split
    · exact ⟨h.1, trivial⟩
    · exact ⟨h.1, rfl⟩
  case probe =>
    unfold callProbe; split
    · exact h.returnProbe rfl _
    · exact ⟨h.1, rfl⟩
  case readCal => exact absurd rfl hload
  case configure => exact CalKept.callWrite (s := ((s.putTx 0 _).putTx 1 _)) h rfl _ _
  case readRaw | acquire => exact CalKept.callWrite (s := s.putTx 0 _) h rfl _ _
  case init => exact absurd rfl hinit
  case compT => exact of_unlessFaulted CalKept.endCmd h.runCompT
  case compP => exact of_unlessFaulted CalKept.endCmd h.runCompP

theorem CalKept.observeStep (h : CalKept cal s) (hr : r.neverLoads = true) (pt : Point) (j : Nat) :
    CalKept cal (observeStep c r pt j s) := by
  unfold Machine.observeStep; dsimp only; split_ifs
  all_goals exact ⟨h.1, hr⟩

theorem CalKept.seqStep (h : CalKept cal s) : CalKept cal (seqStep s) := by
  have hcount : CalKept cal s.countSeqStep := h
  obtain ⟨-, hplace⟩ := h
  cases hq : s.seq with rw [hq] at hplace
  | idle => rw [seqStep_idle hq]; exact hcount
  | entry c => rw [seqStep_entry hq]; exact hcount.enter hplace.1 hplace.2
  | poll c r pt j => rw [seqStep_poll hq]; exact hcount.observeStep hplace pt j
  | polled c r pt res => rw [seqStep_polled hq]; exact hcount.resume hplace pt res

end

theorem carried_calKept (cal : Option CalSet) : Carried (CalKept cal) where
  agenda _ _ h := h
  seqStep _ h _ _ := h.seqStep
  event e s h _ := h.of_same (by rw [(takeEvent_busOnly e s).data]) (takeEvent_busOnly e s).seq
  device _ _ _ _ h _ := h

/-! ## The commands -/

/-- A command the core does not take changes no data register: a faulted core does nothing, a running
one raises `F_BUSY`, and a word that is no command `F_ILLEGAL` (60_exceptions R264, R265, R267). -/
theorem issue_data_of_not_taken {i : Instr} {s : State} (h : ¬(i.wf = true ∧ Accepts s)) :
    (issue i s).data = s.data := by
  cases hf : s.faulted with
  | true => rw [issue_of_faulted hf]
  | false =>
    cases hb : s.busy with
    | true => rw [issue_of_busy hb hf]; rfl
    | false =>
      have hw : i.wf = false := by
        rw [← Bool.not_eq_true]
        exact fun hw => h ⟨hw, (busy_eq_false_iff s).1 hb, (faulted_eq_false_iff s).1 hf⟩
      have hacc : acceptCmd (encode i) (if i.wf then some i else none) s =
          raiseFault .illegal (fieldOpc (encode i)) (s.setCmd (encode i)) := by
        simp [acceptCmd, hb, hw]
      have hstopped : ∀ code info (u : State), ((raiseFault code info u).busy &&
          !(raiseFault code info u).faulted) = false := fun _ _ _ => Bool.and_false _
      rw [issue, unlessFaulted, hf, hacc, runCommand, runTurns_of_stopped _ (hstopped ..)]
      rfl

/-- A command that runs no `READ_CAL` leaves the calibration as it is. -/
theorem issue_cal_kept {i : Instr} {s : State} (hload : i ≠ .readCal) (hinit : i ≠ .init)
    (hw : i.wf = true) (hs : Accepts s) : (issue i s).data.cal = s.data.cal := by
  have hfirst : CalKept s.data.cal (s.latched (encode i) (.entry i)) := ⟨rfl, hload, hinit⟩
  rw [issue_of_idle hw hs.1 hs.2]
  exact ((carried_calKept s.data.cal).runCommand _ hfirst).1

theorem loaded_of_eq {d d' : Readings} {c : CalSet}
    (h : d' = { d with cal := some c, tfineFresh := false }) :
    d'.cal ≠ none ∧ d'.tfineFresh = false := by
  rw [h]; exact ⟨Option.some_ne_none _, rfl⟩

/-- `READ_CAL` keeps the calibration or loads a whole set (O29). -/
theorem readCal_keeps_or_loads {s t : State} (hs : Accepts s) (hexec : exec .readCal s = .next t) :
    t.data.cal = s.data.cal ∨ t.data.cal ≠ none ∧ t.data.tfineFresh = false := by
  obtain ⟨u, hu, -, -, -, -, -, hsuccess, hfailure⟩ := readCalResult s hs
  cases hexec.symm.trans hu
  by_cases ho : t.outcome = .success
  · obtain ⟨-, c, hdata, -⟩ := hsuccess ho
    exact .inr (loaded_of_eq hdata)
  · exact .inl (by rw [hfailure ho])

/-- So does `INIT` (O32). -/
theorem init_keeps_or_loads {s t : State} (hs : Accepts s) (hexec : exec .init s = .next t) :
    t.data.cal = s.data.cal ∨ t.data.cal ≠ none ∧ t.data.tfineFresh = false := by
  obtain ⟨u, hu, -, -, -, -, -, -, -, hnotReady, hready⟩ := initResult s hs
  cases hexec.symm.trans hu
  cases hr : t.ready with
  | false => exact .inl (by rw [(hnotReady hr).1])
  | true =>
    obtain ⟨id, -, hother, hchip⟩ := hready hr
    by_cases hid : id = 0x58
    · obtain ⟨-, -, -, hdata | ⟨c, hdata, -⟩⟩ := hchip hid
      · exact .inl (by rw [hdata])
      · exact .inr (loaded_of_eq (d := { s.data with lastId := some id }) hdata)
    · exact .inl (by rw [(hother hid).1])

/-- Settles O14: the two commands that run `READ_CAL` load a whole set or none, any other none. -/
theorem calibrationChangesOnlyByLoading : Obligations.CalibrationChangesOnlyByLoading := by
  unfold Obligations.CalibrationChangesOnlyByLoading
  intro i s t hexec hne
  have ht : t = issue i s := by rw [exec_eq_issue] at hexec; cases hexec; rfl
  by_cases htaken : i.wf = true ∧ Accepts s
  · obtain ⟨hw, hs⟩ := htaken
    by_cases hload : i = .readCal
    · subst hload
      exact ⟨.inl rfl, (readCal_keeps_or_loads hs hexec).resolve_left hne⟩
    by_cases hinit : i = .init
    · subst hinit
      exact ⟨.inr rfl, (init_keeps_or_loads hs hexec).resolve_left hne⟩
    · exact absurd (ht ▸ issue_cal_kept hload hinit hw hs) hne
  · exact absurd (by rw [ht, issue_data_of_not_taken htaken]) hne

end Sys2Proof.Machine
end

section
/-! SUPPORT. The compensation family: the exact operations of 42_compensation R232–R234, narrowed one by
one, are machine operations on two's-complement words (O6, O7, O8). -/

namespace Sys2Proof.Machine

/-! ## One operation (00_scope R11) -/

section
variable {n m : Nat} (x y : BitVec n) (k : Nat)

theorem addW_toInt : addW n x.toInt y.toInt = (x + y).toInt := (BitVec.toInt_add x y).symm

theorem subW_toInt : subW n x.toInt y.toInt = (x - y).toInt := BitVec.toInt_sub.symm

theorem mulW_toInt : mulW n x.toInt y.toInt = (x * y).toInt := (BitVec.toInt_mul x y).symm

theorem divW_toInt : divW n x.toInt y.toInt = (x.sdiv y).toInt := (BitVec.toInt_sdiv x y).symm

theorem shlW_toInt : shlW n x.toInt k = (x <<< k).toInt := by
  rw [shlW, wrap, BitVec.toInt_shiftLeft, Nat.shiftLeft_eq, BitVec.toInt_eq_toNat_bmod,
    Int.bmod_mul_bmod]
  push_cast
  rfl

theorem asr_toInt : asr x.toInt k = (x.sshiftRight k).toInt := by
  rw [asr_eq_div, BitVec.toInt_sshiftRight, Int.shiftRight_eq_div_pow]
  push_cast
  rfl

/-- A signed operand (R231) in a wider word. -/
theorem sval_eq_toInt (h : n ≤ m) : sval x = (x.signExtend m).toInt :=
  (BitVec.toInt_signExtend_of_le h).symm

/-- An unsigned operand (R231) in a wider word, where its sign bit is 0. -/
theorem uval_eq_toInt (h : n < m) : uval x = (x.setWidth m).toInt := by
  have hx : x.toNat * 2 < 2 ^ m :=
    calc x.toNat * 2 < 2 ^ n * 2 := by have := x.isLt; omega
      _ = 2 ^ (n + 1) := (pow_succ 2 n).symm
      _ ≤ 2 ^ m := Nat.pow_le_pow_right (by decide) h
  have hval : (x.setWidth m).toNat = x.toNat :=
    BitVec.toNat_setWidth_of_le h.le
  rw [uval, BitVec.toInt_eq_toNat_of_lt (by omega), hval]

end

/-! ## The division (R234) -/

theorem toInt_ofInt_s64 {a : Int} (hlo : -(2 ^ 63) ≤ a) (hhi : a < 2 ^ 63) :
    (BitVec.ofInt 64 a).toInt = a := by
  rw [BitVec.toInt_ofInt]
  exact Int.bmod_eq_of_le (by omega) (by omega)

/-- Only `−2^63 / −1` leaves the s64 range. -/
theorem divW_of_s64 {a b : Int} (ha : -(2 ^ 63) ≤ a) (ha' : a < 2 ^ 63) (hb : -(2 ^ 63) ≤ b)
    (hb' : b < 2 ^ 63) (hne : ¬(a = -(2 ^ 63) ∧ b = -1)) : divW 64 a b = a.tdiv b := by
  have hword : BitVec.ofInt 64 a ≠ .intMin 64 ∨ BitVec.ofInt 64 b ≠ -1 := by
    by_contra h
    push Not at h
    refine hne ⟨?_, ?_⟩
    · rw [← toInt_ofInt_s64 ha ha', h.1]; rfl
    · rw [← toInt_ofInt_s64 hb hb', h.2]; rfl
  have hdiv := BitVec.toInt_sdiv_of_ne_or_ne _ _ hword
  rwa [← divW_toInt, toInt_ofInt_s64 ha ha', toInt_ofInt_s64 hb hb'] at hdiv

/-- The guard comes before the division (R239). -/
theorem compPInt_of_denominator_zero {tf p1 p2 p3 p4 p5 p6 : Int}
    (h : (compPDenom tf p1 p2 p3 p4 p5 p6).2 = 0) (rawP p7 p8 p9 : Int) :
    compPInt rawP tf p1 p2 p3 p4 p5 p6 p7 p8 p9 = (0, 0) := if_pos h

/-- Settles O6: the quotient is the machine's, which is exact but for the one overflow. -/
theorem divisionLaw : Obligations.DivisionLaw := by
  unfold Obligations.DivisionLaw
  refine ⟨fun a b ha ha' hb hb' _ => ?_, by decide,
    fun rawP tf p1 p2 p3 p4 p5 p6 p7 p8 p9 h => compPInt_of_denominator_zero h rawP p7 p8 p9⟩
  split
  · rename_i h
    obtain ⟨rfl, rfl⟩ := h
    decide
  · exact divW_of_s64 ha ha' hb hb' ‹_›

/-! ## The temperature path (R236) -/

/-- Settles O7: operation by operation. -/
theorem temperatureIsMachineArithmetic : Obligations.TemperatureIsMachineArithmetic := by
  unfold Obligations.TemperatureIsMachineArithmetic
  intro c r
  have h5 : (5 : Int) = (5 : Word).toInt := rfl
  have h128 : (128 : Int) = (128 : Word).toInt := rfl
  rw [compTemp, compTInt, uval_eq_toInt r (by decide : 20 < 32), uval_eq_toInt c.t1 (by decide : 16 < 32),
    sval_eq_toInt c.t2 (by decide : 16 ≤ 32), sval_eq_toInt c.t3 (by decide : 16 ≤ 32), h5, h128]
  simp only [asr_toInt, shlW_toInt, subW_toInt, mulW_toInt, addW_toInt, BitVec.ofInt_toInt,
    Sys2Proof.Claims.temperatureBits]

/-! ## The pressure path (R238) -/

/-- The denominator and the `v2` computed on the way, in 64-bit words. -/
def denominatorBits (c : CalSet) (tFine : Word) : BitVec 64 × BitVec 64 :=
  let v : BitVec 64 := tFine.signExtend 64 - 128000
  let v2 := v * v * c.p6.signExtend 64
  let v2 := v2 + (v * c.p5.signExtend 64) <<< 17
  let v2 := v2 + (c.p4.signExtend 64) <<< 35
  let v := (v * v * c.p3.signExtend 64).sshiftRight 8 + (v * c.p2.signExtend 64) <<< 12
  (v2, ((140737488355328 + v) * c.p1.setWidth 64).sshiftRight 33)

/-- What follows the division's guard, in 64-bit words: the s64 Q24.8 pressure. -/
def quotientBits (c : CalSet) (rawP : Raw) (v2 v1 : BitVec 64) : BitVec 64 :=
  let p : BitVec 64 := 1048576 - rawP.setWidth 64
  let p := ((p <<< 31 - v2) * 3125).sdiv v1
  let w1 := (c.p9.signExtend 64 * p.sshiftRight 13 * p.sshiftRight 13).sshiftRight 25
  let w2 := (c.p8.signExtend 64 * p).sshiftRight 19
  (p + w1 + w2).sshiftRight 8 + (c.p7.signExtend 64) <<< 4

theorem pressureBits_eq (c : CalSet) (rawP : Raw) (tf : Word) :
    Sys2Proof.Claims.pressureBits c rawP tf =
      if (denominatorBits c tf).2 = 0 then (0 : Word)
      else (quotientBits c rawP (denominatorBits c tf).1 (denominatorBits c tf).2).setWidth 32 >>> 8 :=
  rfl

theorem compPDenom_toInt (c : CalSet) (tf : Word) :
    compPDenom (sval tf) (uval c.p1) (sval c.p2) (sval c.p3) (sval c.p4) (sval c.p5) (sval c.p6) =
      ((denominatorBits c tf).1.toInt, (denominatorBits c tf).2.toInt) := by
  have hoffset : (128000 : Int) = (128000 : BitVec 64).toInt := rfl
  have hone : (2 ^ 47 : Int) = (140737488355328 : BitVec 64).toInt := rfl
  have h16 : 16 ≤ 64 := by decide
  rw [compPDenom, sval_eq_toInt tf (by decide : 32 ≤ 64), uval_eq_toInt c.p1 (by decide : 16 < 64),
    sval_eq_toInt c.p2 h16, sval_eq_toInt c.p3 h16, sval_eq_toInt c.p4 h16, sval_eq_toInt c.p5 h16,
    sval_eq_toInt c.p6 h16, hoffset, hone]
  simp only [asr_toInt, shlW_toInt, subW_toInt, mulW_toInt, addW_toInt, denominatorBits]

theorem compPQuot_toInt (c : CalSet) (rawP : Raw) (v2 v1 : BitVec 64) :
    compPQuot (uval rawP) v2.toInt v1.toInt (sval c.p7) (sval c.p8) (sval c.p9) =
      (quotientBits c rawP v2 v1).toInt := by
  have hscale : (1048576 : Int) = (1048576 : BitVec 64).toInt := rfl
  have hfactor : (3125 : Int) = (3125 : BitVec 64).toInt := rfl
  have h16 : 16 ≤ 64 := by decide
  rw [compPQuot, uval_eq_toInt rawP (by decide : 20 < 64), sval_eq_toInt c.p7 h16,
    sval_eq_toInt c.p8 h16, sval_eq_toInt c.p9 h16, hscale, hfactor]
  simp only [asr_toInt, shlW_toInt, subW_toInt, mulW_toInt, addW_toInt, divW_toInt, quotientBits]

/-- The low 32 bits of a 64-bit word (R238). -/
theorem toInt_emod_low (x : BitVec 64) : (x.toInt % 2 ^ 32).toNat = (x.setWidth 32).toNat := by
  have hx := BitVec.toInt_eq_toNat_cond x
  rw [BitVec.toNat_setWidth]
  split at hx <;> omega

theorem ofNat_lsr (x : Word) (k : Nat) : BitVec.ofNat 32 (lsr x.toNat k) = x >>> k := by
  rw [lsr, ← Nat.shiftRight_eq_div_pow, ← BitVec.toNat_ushiftRight, BitVec.ofNat_toNat,
    BitVec.setWidth_eq]

/-- Settles O8: the guard tests the same word, and below it the paths agree operation by operation. -/
theorem pressureIsMachineArithmetic : Obligations.PressureIsMachineArithmetic := by
  unfold Obligations.PressureIsMachineArithmetic
  intro c r tf
  have hguard : (denominatorBits c tf).2.toInt = 0 ↔ (denominatorBits c tf).2 = 0 :=
    BitVec.toInt_inj (y := 0)
  rw [pressureBits_eq, compPres, compPInt, compPDenom_toInt]
  simp only [hguard, compPQuot_toInt, toInt_emod_low]
  split
  · rfl
  · exact ofNat_lsr _ 8

end Sys2Proof.Machine
end

section
/-! SUPPORT. The compensation family: `COMP_T` and `COMP_P` end in their first step (10_state R39), so
what they do is a function of the data registers (42_compensation R235, R236, R240; O9, O10, O11, O12). -/

namespace Sys2Proof.Machine

/-! ## A command that makes no observation -/

theorem BusMoves.refl (s : State) : BusMoves s s := ⟨rfl, rfl, id, [], rfl, .inl⟩

theorem BusMoves.trans {s t u : State} (h : BusMoves s t) (k : BusMoves t u) : BusMoves s u where
  rest := by
    rw [k.rest]
    rw [h.rest]
  ack := k.ack.trans h.ack
  af haf := k.af (h.af haf)
  wire := by
    obtain ⟨l, hl, hstop⟩ := h.wire
    obtain ⟨l', hl', hstop'⟩ := k.wire
    refine ⟨l' ++ l, by rw [hl', hl, List.append_assoc], fun hs => ?_⟩
    obtain hpending | hsent := hstop hs
    · exact (hstop' hpending).imp_right fun h => List.mem_append.2 (.inl h)
    · exact .inr (List.mem_append.2 (.inr hsent))

/-- A stopped core takes no further turn. -/
theorem Stopped.not_running {s : State} (h : Stopped s) : (s.busy && !s.faulted) = false := by
  obtain hfault | ⟨-, hidle⟩ := h
  · rw [State.faulted, Option.isSome_iff_ne_none.2 hfault, Bool.not_true, Bool.and_false]
  · rw [(busy_eq_false_iff s).2 hidle, Bool.false_and]

/-- `c`, latched in `s`, still waits for its first step in `x`, or `x` is where that step left it, but for
what the bus agent has done. -/
def FirstStepOnly (c : Instr) (s x : State) : Prop :=
  (x.seq = .entry c ∧ BusMoves s x) ∨ ∃ u, BusMoves s u ∧ BusMoves (enter c u) x

section
variable {c : Instr} {s : State}

theorem FirstStepOnly.moves {x y : State} (h : FirstStepOnly c s x) (hm : BusMoves x y) :
    FirstStepOnly c s y :=
  h.imp (fun ⟨hq, hx⟩ => ⟨hm.seq.trans hq, hx.trans hm⟩) fun ⟨u, hu, hx⟩ => ⟨u, hu, hx.trans hm⟩

theorem carried_firstStepOnly (hf : s.fault = none)
    (hstop : ∀ u : State, u.fault = none → Stopped (enter c u)) : Carried (FirstStepOnly c s) where
  agenda x l h := h.moves (busMoves_setAgenda x l)
  seqStep x h hb hsafe := by
    obtain ⟨hq, hx⟩ | ⟨u, hu, hx⟩ := h
    · rw [seqStep_entry hq]
      exact .inr ⟨x.countSeqStep, hx.trans (busMoves_countSeqStep x), .refl _⟩
    · have hstopped := (hstop u (hu.fault.trans hf)).not_running
      have hrunning : ((enter c u).busy && !(enter c u).faulted) = true := by
        rw [State.busy, State.faulted, ← hx.seq, ← hx.fault]
        exact Bool.and_eq_true_iff.2 ⟨hb, congrArg (!·) hsafe⟩
      rw [hrunning] at hstopped
      cases hstopped
  event _ _ h he := h.moves (busMoves_takeEvent he)
  device x _ _ _ h _ := h.moves (busMoves_setBusAgent x _)

/-- A command whose first step stops it: what is left of it is that step, the bus agent moving before
and after. -/
theorem runCommand_of_oneStep (hq : s.seq = .entry c) (hf : s.fault = none)
    (hstop : ∀ u : State, u.fault = none → Stopped (enter c u)) :
    ∃ u, BusMoves s u ∧ BusMoves (enter c u) (runCommand s) := by
  obtain ⟨hentry, hm⟩ | h :=
    (carried_firstStepOnly hf hstop).runCommand s (.inl ⟨hq, .refl s⟩)
  · have hend := runCommand_ends s
    rw [busy_eq_false_iff, hentry, State.faulted, hm.fault, hf] at hend
    rcases hend with h | h <;> cases h
  · exact h

/-- With no turn of another agent due, that step is all. -/
theorem runCommand_of_oneStep_alone (hq : s.seq = .entry c) (hf : s.fault = none)
    (hstop : ∀ u : State, u.fault = none → Stopped (enter c u)) (hagenda : s.agenda = [])
    (hagent : s.busAgent = .scripted) : runCommand s = enter c s.countSeqStep := by
  have hb : s.busy = true := (busy_eq_true_iff s).2 (by rw [hq]; exact Seq.noConfusion)
  have hsafe : s.faulted = false := (faulted_eq_false_iff s).2 hf
  have hstep : sequencerTurn s = enter c s.countSeqStep := by
    have hagent' : (enter c s.countSeqStep).busAgent = .scripted := by
      rw [← seqStep_entry hq, (seqStep_keeps s).busAgent, hagent]
    rw [sequencerTurn_of_running hb hsafe, seqStep_entry hq, unlessFaulted]
    split
    · rfl
    · rw [busWindow, hagent']
  have hfuel : s.agenda.length + stepsLeft s.params s.seq = entryCost s.params c + 1 := by
    rw [hagenda, hq, stepsLeft, List.length_nil]; omega
  rw [runCommand, hfuel, runTurns_succ_of_nil _ hagenda (by rw [hb, hsafe]; rfl), hstep,
    runTurns_of_stopped _ (hstop s.countSeqStep hf).not_running]

end

/-! ## A command that is a function of the data registers (R235) -/

/-- What a command's only step does when it computes `d`, or finds the fault `f` (60_exceptions R263). -/
def State.settle (s : State) : Except FaultRecord Readings → State
  | .ok d => endCmd (s.setData d)
  | .error f => s.setFault (some f)

/-- The command `i` issued in `s` has ended in `t` with the readings `d`, or the fault `f` has stopped
it. -/
def Settled (i : Instr) (s t : State) : Except FaultRecord Readings → Prop
  | .ok d => Sys2Proof.Claims.Ended i s t ∧ t.data = d
  | .error f => t.fault = some f ∧ t.data = s.data ∧ t.busy = true

section
variable {s : State} (out : Except FaultRecord Readings)

theorem settle_stops (hf : s.fault = none) : Stopped (s.settle out) := by
  cases out with
  | ok d => exact .inr ⟨hf, rfl⟩
  | error f => exact .inl (Option.some_ne_none f)

/-- Such a step touches the data registers, `SEQ` and `FAULT`. -/
theorem settle_rest :
    s.settle out = { s with
      data := (s.settle out).data, seq := (s.settle out).seq, fault := (s.settle out).fault } := by
  cases out <;> rfl

end

/-- The only step of `c` computes `out` from the data registers. -/
structure Computes (c : Instr) (out : Readings → Except FaultRecord Readings) : Prop where
  wf : c.wf = true
  firstStep : ∀ u : State, u.fault = none → enter c u = u.settle (out u.data)

section
variable {c : Instr} {out : Readings → Except FaultRecord Readings} (hcomp : Computes c out) {s : State}
include hcomp

/-- Such a command on any bus. -/
theorem Computes.exec_settles (hs : Accepts s) :
    ∃ t, exec c s = .next t ∧ t.outcome = s.outcome ∧ t.ready = s.ready ∧
      Sys2Proof.Claims.OffTheBus s t ∧ t.mem = s.mem ∧ Settled c s t (out s.data) := by
  have hstop : ∀ u : State, u.fault = none → Stopped (enter c u) := fun u hu => by
    rw [hcomp.firstStep u hu]; exact settle_stops _ hu
  have hexec : exec c s = .next (runCommand (s.latched (encode c) (.entry c))) := by
    rw [exec_eq_issue, issue_of_idle hcomp.wf hs.1 hs.2]; rfl
  have halone := runCommand_of_oneStep_alone (s := s.latched (encode c) (.entry c)) rfl hs.2 hstop
  have hkeeps := (runCommand_keepsRun (s.latched (encode c) (.entry c))).of_latched
  obtain ⟨u, hu, ht⟩ := runCommand_of_oneStep (s := s.latched (encode c) (.entry c)) rfl hs.2 hstop
  generalize runCommand (s.latched (encode c) (.entry c)) = t at hexec halone hkeeps ht
  have hsafe : u.fault = none := hu.fault.trans hs.2
  have hdata : u.data = s.data := hu.data
  rw [hcomp.firstStep u hsafe, hdata] at ht
  have hrest := settle_rest (s := u) (out s.data)
  refine ⟨t, hexec, ?_, ?_, ⟨?_, ?_, ?_, fun hagenda hagent => ?_⟩, ?_, ?_⟩
  · rw [ht.outcome, hrest]; exact hu.outcome
  · rw [ht.ready, hrest]; exact hu.ready
  · rw [ht.draws, hrest]; exact hu.draws
  · rw [ht.observations, hrest]; exact hu.observations
  · rw [ht.starts, hrest]; exact hu.starts
  · rw [halone hagenda hagent,
      hcomp.firstStep (s.latched (encode c) (.entry c)).countSeqStep hs.2, settle_rest]
    exact ⟨rfl, rfl⟩
  · rw [ht.mem, hrest]; exact hu.mem
  · cases hout : out s.data with rw [hout] at ht
    | ok d => exact ⟨⟨⟨ht.seq, ht.fault.trans hsafe⟩, hkeeps⟩, ht.data⟩
    | error f =>
      refine ⟨ht.fault, ht.data.trans hdata, (busy_eq_true_iff t).2 ?_⟩
      rw [ht.seq]
      exact hu.seq.trans_ne Seq.noConfusion

theorem Computes.settled {t : State} (hs : Accepts s) (hexec : exec c s = .next t) :
    Settled c s t (out s.data) := by
  obtain ⟨t', ht', -, -, -, -, hset⟩ := hcomp.exec_settles hs
  cases hexec.symm.trans ht'
  exact hset

/-- If `out` reads nothing it writes, running the command again changes nothing. -/
theorem Computes.repeated (hidem : ∀ {d v}, out d = .ok v → out v = .ok v) {t u : State}
    (hs : Accepts s) (ht : Accepts t) (hst : exec c s = .next t) (htu : exec c t = .next u) :
    u.data = t.data ∧ Accepts u := by
  have hfirst := hcomp.settled hs hst
  have hagain := hcomp.settled ht htu
  cases hout : out s.data with rw [hout] at hfirst
  | ok d =>
    obtain ⟨-, hdata⟩ := hfirst
    rw [hdata, hidem hout] at hagain
    obtain ⟨hended, hdata'⟩ := hagain
    exact ⟨hdata'.trans hdata.symm, hended.1⟩
  | error f =>
    obtain ⟨hfault, -⟩ := hfirst
    exact absurd (hfault.symm.trans ht.2) (Option.some_ne_none f)

/-- Equal faults or equal results in two states, whatever else differs in them. -/
theorem Computes.same {α : Type} (view : Readings → α) {s' t t' : State}
    (hview : (out s.data).map view = (out s'.data).map view) (hs : Accepts s) (hs' : Accepts s')
    (ht : exec c s = .next t) (ht' : exec c s' = .next t') :
    t.fault = t'.fault ∧ (t.fault = none → view t.data = view t'.data) := by
  have hset := hcomp.settled hs ht
  have hset' := hcomp.settled hs' ht'
  cases hout : out s.data with rw [hout] at hset hview
  | ok d =>
    obtain ⟨⟨⟨-, hsafe⟩, -⟩, hdata⟩ := hset
    cases hout' : out s'.data with rw [hout'] at hset' hview
    | ok d' =>
      obtain ⟨⟨⟨-, hsafe'⟩, -⟩, hdata'⟩ := hset'
      refine ⟨hsafe.trans hsafe'.symm, fun _ => ?_⟩
      rw [hdata, hdata']
      exact Except.ok.inj hview
    | error f' => cases hview
  | error f =>
    obtain ⟨hfault, -⟩ := hset
    cases hout' : out s'.data with rw [hout'] at hset' hview
    | ok d' => cases hview
    | error f' =>
      obtain ⟨hfault', -⟩ := hset'
      obtain rfl : f = f' := Except.error.inj hview
      exact ⟨hfault.trans hfault'.symm,
        fun h => absurd (hfault.symm.trans h) (Option.some_ne_none f)⟩

end

/-! ## `COMP_T` and `COMP_P` (R236, R240) -/

/-- `COMP_T` on the data registers (R236). -/
def Readings.compT (d : Readings) : Except FaultRecord Readings :=
  match d.cal, d.raw with
  | none, _ => .error { code := .unset, info := 0x01 }
  | some _, none => .error { code := .unset, info := 0x02 }
  | some c, some r =>
    .ok { d with
      tfine := some (Sys2Proof.Claims.temperatureOf c r).1,
      temp := some (Sys2Proof.Claims.temperatureOf c r).2, tfineFresh := true }

/-- `COMP_P` on the data registers (R240). -/
def Readings.compP (d : Readings) : Except FaultRecord Readings :=
  match d.cal, d.raw, d.tfineFresh, d.tfine with
  | none, _, _, _ => .error { code := .unset, info := 0x01 }
  | some _, none, _, _ => .error { code := .unset, info := 0x02 }
  | some _, some _, false, _ => .error { code := .tfineStale, info := 0x00 }
  | some _, some _, true, none => .error { code := .unset, info := 0x03 }
  | some c, some r, true, some tf =>
    .ok { d with pres := some (Sys2Proof.Claims.pressureOf c r tf) }

section
variable {d : Readings}

theorem compT_of_cal_unset (hc : d.cal = none) :
    d.compT = .error { code := .unset, info := 0x01 } := by rw [Readings.compT, hc]

theorem compT_of_raw_unset (hc : d.cal ≠ none) (hr : d.raw = none) :
    d.compT = .error { code := .unset, info := 0x02 } := by
  obtain ⟨c, hc⟩ := Option.ne_none_iff_exists'.1 hc
  rw [Readings.compT, hc, hr]

theorem compT_of_set {c : CalSet} {r : RawSample} (hc : d.cal = some c) (hr : d.raw = some r) :
    d.compT = .ok { d with
      tfine := some (Sys2Proof.Claims.temperatureOf c r).1,
      temp := some (Sys2Proof.Claims.temperatureOf c r).2, tfineFresh := true } := by
  rw [Readings.compT, hc, hr]

theorem compP_of_cal_unset (hc : d.cal = none) :
    d.compP = .error { code := .unset, info := 0x01 } := by rw [Readings.compP, hc]

theorem compP_of_raw_unset (hc : d.cal ≠ none) (hr : d.raw = none) :
    d.compP = .error { code := .unset, info := 0x02 } := by
  obtain ⟨c, hc⟩ := Option.ne_none_iff_exists'.1 hc
  rw [Readings.compP, hc, hr]

theorem compP_of_stale (hc : d.cal ≠ none) (hr : d.raw ≠ none) (hfresh : d.tfineFresh = false) :
    d.compP = .error { code := .tfineStale, info := 0x00 } := by
  obtain ⟨c, hc⟩ := Option.ne_none_iff_exists'.1 hc
  obtain ⟨r, hr⟩ := Option.ne_none_iff_exists'.1 hr
  rw [Readings.compP, hc, hr, hfresh]

theorem compP_of_tfine_unset (hc : d.cal ≠ none) (hr : d.raw ≠ none) (hfresh : d.tfineFresh = true)
    (htf : d.tfine = none) : d.compP = .error { code := .unset, info := 0x03 } := by
  obtain ⟨c, hc⟩ := Option.ne_none_iff_exists'.1 hc
  obtain ⟨r, hr⟩ := Option.ne_none_iff_exists'.1 hr
  rw [Readings.compP, hc, hr, hfresh, htf]

theorem compP_of_set {c : CalSet} {r : RawSample} {tf : Word} (hc : d.cal = some c)
    (hr : d.raw = some r) (hfresh : d.tfineFresh = true) (htf : d.tfine = some tf) :
    d.compP = .ok { d with pres := some (Sys2Proof.Claims.pressureOf c r tf) } := by
  rw [Readings.compP, hc, hr, hfresh, htf]

end

theorem computes_compT : Computes .compT Readings.compT where
  wf := rfl
  firstStep u hf := by
    rw [enter, enterCompT]
    obtain ⟨hc, hrun⟩ | ⟨hc, hr, hrun⟩ | ⟨c, r, hc, hr, hrun⟩ := runCompT_cases u
    · rw [hrun, compT_of_cal_unset hc]; rfl
    · rw [hrun, compT_of_raw_unset hc hr]; rfl
    · rw [hrun, compT_of_set hc hr, compTemp_eq_temperatureOf]; exact unlessFaulted_of_safe hf

theorem computes_compP : Computes .compP Readings.compP where
  wf := rfl
  firstStep u hf := by
    rw [enter, enterCompP]
    obtain ⟨hc, hrun⟩ | ⟨hc, hr, hrun⟩ | ⟨hc, hr, hfresh, hrun⟩ | ⟨hc, hr, hfresh, htf, hrun⟩ |
      ⟨c, r, tf, hc, hr, hfresh, htf, hrun⟩ := runCompP_cases u
    · rw [hrun, compP_of_cal_unset hc]; rfl
    · rw [hrun, compP_of_raw_unset hc hr]; rfl
    · rw [hrun, compP_of_stale hc hr hfresh]; rfl
    · rw [hrun, compP_of_tfine_unset hc hr hfresh htf]; rfl
    · rw [hrun, compP_of_set hc hr hfresh htf, compPres_eq_pressureOf]
      exact unlessFaulted_of_safe hf

/-- Settles O9: each clause is a case of `Readings.compT`. -/
theorem compTResult : Obligations.CompTResult := by
  unfold Obligations.CompTResult
  intro s hs
  obtain ⟨t, ht, hout, hready, hbus, hmem, hset⟩ := computes_compT.exec_settles hs
  refine ⟨t, ht, hout, hready, hbus, fun a => by rw [hmem], fun c r hc hr => ?_, fun hc => ?_,
    fun hc hr => ?_⟩
  · rwa [compT_of_set hc hr] at hset
  · rwa [compT_of_cal_unset hc] at hset
  · rwa [compT_of_raw_unset hc hr] at hset

/-- Settles O10: each clause is a case of `Readings.compP`. -/
theorem compPResult : Obligations.CompPResult := by
  unfold Obligations.CompPResult
  intro s hs
  obtain ⟨t, ht, hout, hready, hbus, hmem, hset⟩ := computes_compP.exec_settles hs
  refine ⟨t, ht, hout, hready, hbus, fun a => by rw [hmem], fun c r tf hc hr hfresh htf => ?_,
    fun hc => ?_, fun hc hr => ?_, fun hc hr hfresh => ?_⟩
  · rwa [compP_of_set hc hr hfresh htf] at hset
  · rwa [compP_of_cal_unset hc] at hset
  · rwa [compP_of_raw_unset hc hr] at hset
  · rwa [compP_of_stale hc hr hfresh] at hset

/-! ## The zero denominator (R239) -/

theorem denominator_of_p1_zero (tf p2 p3 p4 p5 p6 : Int) :
    (Sys2Proof.Claims.denominator tf 0 p2 p3 p4 p5 p6).2 = 0 := by
  simp [Sys2Proof.Claims.denominator, Sys2Proof.Claims.wrapTo]

theorem pressure_of_denominator_zero {tf p1 p2 p3 p4 p5 p6 : Int}
    (h : (Sys2Proof.Claims.denominator tf p1 p2 p3 p4 p5 p6).2 = 0) (rawP p7 p8 p9 : Int) :
    Sys2Proof.Claims.pressure rawP tf p1 p2 p3 p4 p5 p6 p7 p8 p9 = 0 := if_pos h

/-- Settles O11. -/
theorem zeroDenominatorGuard : Obligations.ZeroDenominatorGuard := by
  unfold Obligations.ZeroDenominatorGuard
  intro s c r tf hs hc hr hfresh htf hzero
  obtain ⟨t, ht, hout, -, -, -, hset⟩ := computes_compP.exec_settles hs
  rw [compP_of_set hc hr hfresh htf] at hset
  obtain ⟨⟨⟨-, hsafe⟩, -⟩, hdata⟩ := hset
  have hden : (Sys2Proof.Claims.denominator tf.toInt c.p1.toNat c.p2.toInt c.p3.toInt c.p4.toInt
      c.p5.toInt c.p6.toInt).2 = 0 := by
    obtain h | h := hzero
    · exact h
    · rw [h]; exact denominator_of_p1_zero ..
  rw [Sys2Proof.Claims.pressureOf, pressure_of_denominator_zero hden] at hdata
  exact ⟨t, ht, hsafe, hout, hdata⟩

/-! ## Purity (R235) -/

/-- `COMP_T` does not read what it writes. -/
theorem compT_idempotent {d v : Readings} (h : d.compT = .ok v) : v.compT = .ok v := by
  unfold Readings.compT at h
  split at h
  · cases h
  · cases h
  · rename_i c r hc hr
    cases h
    exact compT_of_set hc hr

/-- `COMP_P` does not read what it writes. -/
theorem compP_idempotent {d v : Readings} (h : d.compP = .ok v) : v.compP = .ok v := by
  unfold Readings.compP at h
  split at h
  · cases h
  · cases h
  · cases h
  · cases h
  · rename_i c r tf hc hr hfresh htf
    cases h
    exact compP_of_set hc hr hfresh htf

theorem compT_same_operands {d d' : Readings} (hc : d.cal = d'.cal) (hr : d.raw = d'.raw) :
    d.compT.map (fun v => (v.tfine, v.temp)) = d'.compT.map fun v => (v.tfine, v.temp) := by
  unfold Readings.compT
  rw [hc, hr]
  cases d'.cal with
  | none => rfl
  | some c => cases d'.raw <;> rfl

theorem compP_same_operands {d d' : Readings} (hc : d.cal = d'.cal) (hr : d.raw = d'.raw)
    (htf : d.tfine = d'.tfine) (hfresh : d.tfineFresh = d'.tfineFresh) :
    d.compP.map Readings.pres = d'.compP.map Readings.pres := by
  unfold Readings.compP
  rw [hc, hr, htf, hfresh]
  cases d'.cal with
  | none => rfl
  | some c =>
    cases d'.raw with
    | none => rfl
    | some r => cases d'.tfineFresh <;> cases d'.tfine <;> rfl

/-- Settles O12: both commands are functions of the data registers. -/
theorem compensationIsPure : Obligations.CompensationIsPure := by
  unfold Obligations.CompensationIsPure
  refine ⟨fun i s t u hi hs ht hst htu => ?_, fun s s' t t' hs hs' hc hr ht ht' => ?_,
    fun s s' t t' hs hs' hc hr htf hfresh ht ht' => ?_⟩
  · obtain rfl | rfl := hi
    · exact computes_compT.repeated compT_idempotent hs ht hst htu
    · exact computes_compP.repeated compP_idempotent hs ht hst htu
  · obtain ⟨hfault, hview⟩ :=
      computes_compT.same _ (compT_same_operands hc hr) hs hs' ht ht'
    exact ⟨hfault, fun h => Prod.mk.inj (hview h)⟩
  · exact computes_compP.same _ (compP_same_operands hc hr htf hfresh) hs hs' ht ht'

end Sys2Proof.Machine
end

section
/-! SUPPORT. The compensation family: a fault leaves the sequencer where it stands, and so `BUSY` 1
(60_exceptions R263); `ACQUIRE` on any bus (42_compensation R244; O34). -/

namespace Sys2Proof.Machine

/-! ## A fault is raised in place (R263) -/

/-- On the way from `s` to `t` no fault has been recorded, or the sequencer has not moved. -/
def FaultsInPlace (s t : State) : Prop := t.fault = none ∨ t.seq = s.seq

theorem FaultsInPlace.of_same {s s' t : State} (h : FaultsInPlace s' t) (hq : s'.seq = s.seq) :
    FaultsInPlace s t := h.imp_right fun h => h.trans hq

/-- A body that has not moved the sequencer, and the command's end unless it raised a fault. -/
theorem faultsInPlace_unlessEnd {s t : State} (hq : t.seq = s.seq) :
    FaultsInPlace s (unlessFaulted endCmd t) := by
  unfold unlessFaulted; split
  · exact .inr hq
  · exact .inl ((faulted_eq_false_iff t).1 (Bool.eq_false_iff.2 ‹_›))

theorem faultsInPlace_acquireRest (s : State) : FaultsInPlace s (acquireRest s) := by
  refine faultsInPlace_unlessEnd ?_
  unfold unlessFaulted; split
  · exact seq_runCompT s
  · exact (seq_runCompP _).trans (seq_runCompT s)

section
variable {s : State} (hf : s.fault = none) (c : Instr) (r : Ret) (o : TxOutcome)
include hf

/-! ### Where no fault is raised -/

theorem fault_rawUpdate : (rawUpdate o s).fault = none := by cases o <;> exact hf

theorem fault_calUpdate : (calUpdate o s).fault = none := by cases o <;> exact hf

theorem fault_idUpdate : (idUpdate o s).fault = none := by cases o <;> exact hf

theorem fault_callRegWrite (x v : Byte) : (callRegWrite c r x v s).fault = none := by
  rw [callRegWrite_eq]; exact hf

theorem fault_callRegRead (x : Byte) : (callRegRead c r x s).fault = none := by
  rw [callRegRead_eq]; exact hf

theorem fault_calDone : (calDone c o s).fault = none := by
  unfold calDone; split
  · exact fault_callRegWrite (fault_calUpdate hf o) ..
  · exact fault_calUpdate hf o

theorem fault_idDone : (idDone c o s).fault = none := by
  unfold idDone; dsimp only; split
  · exact fault_callRegRead (fault_idUpdate hf o) ..
  · exact fault_idUpdate hf o

theorem fault_returnProbe (ready : Bool) : (returnProbe c r ready s).fault = none := by
  cases r
  case i1 =>
    cases ready
    · exact hf
    · exact fault_callRegRead (s := s.setReady true) hf ..
  all_goals exact hf

theorem fault_callProbe (a : Addr7) (m : Nat) : (callProbe c r a m s).fault = none := by
  unfold callProbe; split
  · exact fault_returnProbe hf ..
  · exact hf

theorem fault_nextAttempt (a : Addr7) (m k : Nat) : (nextAttempt c r a m k s).fault = none := by
  unfold nextAttempt; split
  · exact hf
  · exact fault_returnProbe hf ..

theorem fault_takeByte (n i : Nat) : (takeByte n i s).fault = none := by rw [takeByte_eq]; exact hf

theorem fault_afterQ5 (a : Addr7) (m k : Nat) (res : Option Obs) :
    (afterQ5 c r a m k res s).fault = none := by
  unfold afterQ5; split
  · exact hf
  · split <;> exact hf

theorem fault_observeStep (pt : Point) (j : Nat) : (observeStep c r pt j s).fault = none := by
  unfold observeStep; dsimp only; split_ifs <;> exact hf

/-! ### Where one may be -/

theorem faultsInPlace_callWrite (a : Addr7) (n : Nat) : FaultsInPlace s (callWrite c r a n s) := by
  unfold callWrite; split
  · exact .inr rfl
  · exact .inl hf

theorem faultsInPlace_sendByte (a : Addr7) (n i : Nat) :
    FaultsInPlace s (sendByte c r a n i s) := by
  unfold sendByte; split
  · split
    · exact .inl hf
    · exact .inr rfl
  · exact .inl hf

theorem faultsInPlace_rawDone : FaultsInPlace s (rawDone c o s) := by
  unfold rawDone; split
  · exact (faultsInPlace_acquireRest _).of_same (seq_rawUpdate o s)
  · exact .inl (fault_rawUpdate hf o)

theorem faultsInPlace_returnRead : FaultsInPlace s (returnRead c r o s) := by
  cases r
  case c1Burst => exact .inl (fault_calDone (s := s.setOutcome o) hf c o)
  case m1Burst => exact (faultsInPlace_rawDone (s := s.setOutcome o) hf c o).of_same rfl
  case i3Burst => exact .inl (fault_idDone (s := s.setOutcome o) hf c o)
  all_goals exact .inl hf

theorem faultsInPlace_returnWrite : FaultsInPlace s (returnWrite c r o s) := by
  cases r <;> simp only [returnWrite]
  case g1 => exact .inl (fault_callRegWrite (s := s.setOutcome o) hf ..)
  case c1Ptr =>
    split
    · exact .inl hf
    · exact .inl (fault_calDone (s := s.setOutcome o) hf c o)
  case m1Ptr =>
    split
    · exact .inl hf
    · exact (faultsInPlace_rawDone (s := s.setOutcome o) hf c o).of_same rfl
  case i3Ptr =>
    split
    · exact .inl hf
    · exact .inl (fault_idDone (s := s.setOutcome o) hf c o)
  all_goals exact .inl hf

theorem faultsInPlace_resume (pt : Point) (res : Option Obs) :
    FaultsInPlace s (resume c r pt res s) := by
  cases pt <;> simp only [resume]
  case s2 | p2 => exact .inl hf
  case w1 | rd2 => split <;> exact .inl hf
  case w4 =>
    unfold afterW4; split
    · exact .inl hf
    · split
      · exact .inl hf
      · exact (faultsInPlace_sendByte (s := s.onBus Periph.clearStatus) hf ..).of_same rfl
  case w10 =>
    split
    · exact faultsInPlace_sendByte hf ..
    · exact .inl hf
  case wStop => exact faultsInPlace_returnWrite hf ..
  case rd5 =>
    unfold afterRd5; split
    · exact .inl hf
    · split <;> exact .inl hf
  case rd11 =>
    unfold afterRd11; split
    · exact .inl hf
    · split
      · exact .inl (fault_takeByte hf ..)
      · exact (faultsInPlace_returnRead (fault_takeByte hf ..) ..).of_same (takeByte_seq ..)
  case rdStop => exact faultsInPlace_returnRead hf ..
  case q2 =>
    split
    · exact .inl hf
    · exact .inl (fault_nextAttempt hf ..)
  case q5 => exact .inl (fault_afterQ5 hf ..)
  case qStop =>
    split
    · exact .inl (fault_returnProbe hf ..)
    · exact .inl (fault_nextAttempt hf ..)

theorem faultsInPlace_enter : FaultsInPlace s (enter c s) := by
  cases c <;> simp only [enter]
  case start | stop => exact .inl hf
  case write => exact faultsInPlace_callWrite hf ..
  case read => split <;> exact .inl hf
  case probe | init => exact .inl (fault_callProbe hf ..)
  case readCal | readRaw | acquire => exact .inl (fault_callRegRead hf ..)
  case configure => exact .inl (fault_callRegWrite hf ..)
  case compT => exact faultsInPlace_unlessEnd (seq_runCompT s)
  case compP => exact faultsInPlace_unlessEnd (seq_runCompP s)

theorem faultsInPlace_seqStep : FaultsInPlace s (seqStep s) := by
  cases hq : s.seq with
  | idle => exact .inl (by rw [seqStep_idle hq]; exact hf)
  | entry c =>
    rw [seqStep_entry hq]; exact (faultsInPlace_enter (s := s.countSeqStep) hf c).of_same rfl
  | poll c r pt j => rw [seqStep_poll hq]; exact .inl (fault_observeStep (s := s.countSeqStep) hf ..)
  | polled c r pt res =>
    rw [seqStep_polled hq]; exact (faultsInPlace_resume (s := s.countSeqStep) hf ..).of_same rfl

end

/-- A command that a fault has stopped still stands at a place of the sequencer. -/
def FaultKeepsBusy (s : State) : Prop := s.fault = none ∨ s.busy = true

theorem FaultKeepsBusy.moves {s t : State} (h : FaultKeepsBusy s) (hm : BusMoves s t) :
    FaultKeepsBusy t := by
  unfold FaultKeepsBusy State.busy at *; rwa [hm.fault, hm.seq]

theorem carried_faultKeepsBusy : Carried FaultKeepsBusy where
  agenda s l h := h.moves (busMoves_setAgenda s l)
  seqStep s _ hb hsafe :=
    (faultsInPlace_seqStep ((faulted_eq_false_iff s).1 hsafe)).imp_right fun hq => by
      rwa [State.busy, hq]
  event _ _ h he := h.moves (busMoves_takeEvent he)
  device s _ _ _ h _ := h.moves (busMoves_setBusAgent s _)

theorem eq_runCommand_of_exec {c : Instr} {s t : State} (hw : c.wf = true) (hs : Accepts s)
    (hexec : exec c s = .next t) : t = runCommand (s.latched (encode c) (.entry c)) := by
  rw [exec_eq_issue, issue_of_idle hw hs.1 hs.2] at hexec
  cases hexec
  rfl

theorem keepsRun_of_exec {c : Instr} {s t : State} (hw : c.wf = true) (hs : Accepts s)
    (hexec : exec c s = .next t) : KeepsRun (s.latched (encode c) (.entry c)) t := by
  rw [eq_runCommand_of_exec hw hs hexec]; exact runCommand_keepsRun _

/-- `BUSY` stays 1 when a fault stops a command (R263). -/
theorem busy_of_exec_faulted {c : Instr} {s t : State} (hw : c.wf = true) (hs : Accepts s)
    (hexec : exec c s = .next t) (hfault : t.fault ≠ none) : t.busy = true := by
  obtain rfl := eq_runCommand_of_exec hw hs hexec
  have hkept := carried_faultKeepsBusy.runCommand (s.latched (encode c) (.entry c)) (.inl hs.2)
  exact hkept.resolve_left hfault

/-! ## `ACQUIRE` on any bus (R244) -/

/-- Without a calibration A2 raises its fault, and A3 and A4 do not run. -/
theorem acquireRest_of_cal_unset {s : State} (hc : s.data.cal = none) :
    acquireRest s = raiseFault .unset 0x01 s := by
  have hrun : runCompT s = raiseFault .unset 0x01 s := by rw [runCompT, hc]
  rw [acquireRest, hrun]
  rfl

theorem regs_runCompT (s : State) :
    (runCompT s).regs = { s.regs with data := (runCompT s).data, fault := (runCompT s).fault } := by
  obtain ⟨-, h⟩ | ⟨-, -, h⟩ | ⟨_, _, -, -, h⟩ := runCompT_cases s <;> rw [h] <;> rfl

theorem regs_runCompP (s : State) :
    (runCompP s).regs = { s.regs with data := (runCompP s).data, fault := (runCompP s).fault } := by
  obtain ⟨-, h⟩ | ⟨-, -, h⟩ | ⟨-, -, -, h⟩ | ⟨-, -, -, -, h⟩ | ⟨_, _, _, -, -, -, -, h⟩ :=
    runCompP_cases s <;> rw [h] <;> rfl

/-- A2 to A4 write the data registers and `FAULT`, and nothing else a sensor command is about. -/
theorem regs_acquireRest (s : State) :
    (acquireRest s).regs =
      { s.regs with data := (acquireRest s).data, fault := (acquireRest s).fault } := by
  have hT := regs_runCompT s
  have hP : (runCompP (runCompT s)).regs = { s.regs with
      data := (runCompP (runCompT s)).data, fault := (runCompP (runCompT s)).fault } :=
    (regs_runCompP _).trans (by rw [hT])
  unfold acquireRest
  by_cases h : (runCompT s).faulted = true
  · rw [unlessFaulted, unlessFaulted, if_pos h, if_pos h]; exact hT
  · rw [unlessFaulted, unlessFaulted, if_neg h]
    split <;> exact hP

/-- Settles O34: the registers the script of `READ_RAW` ends with, then A2 to A4 by whether the
calibration is set. -/
theorem acquireResult : Obligations.AcquireResult := by
  unfold Obligations.AcquireResult
  intro s hs
  obtain ⟨t, ht, ⟨u, hread, hregs⟩, hend⟩ := (rawScript_kept (.inr rfl) s.regs).exec rfl hs rfl
  obtain ⟨r, hraw, hsample⟩ := sampleOf_rawUpdate hread
  obtain ⟨⟨hu, -, hmem⟩, -⟩ := hread
  have hsafe : (rawUpdate u.outcome u).fault = none := fault_rawUpdate (hu.fault.trans hs.2) _
  have hdone : rawDone .acquire u.outcome u = acquireRest (rawUpdate u.outcome u) := rfl
  have hdata : t.data = (acquireRest (rawUpdate u.outcome u)).data := congrArg Regs.data hregs
  have hfault : t.fault = (acquireRest (rawUpdate u.outcome u)).fault := congrArg Regs.fault hregs
  obtain ⟨-, hctrl, -⟩ := (keepsRun_of_exec rfl hs ht).of_latched
  rw [hdone, regs_acquireRest, regs_rawUpdate] at hregs
  simp only [State.regs, Regs.mk.injEq] at hregs
  obtain ⟨-, -, htmem, htdraws, htready, htout, -, -⟩ := hregs
  refine ⟨t, r, ht, htready.trans hu.ready, hctrl, hsample t htout htmem htdraws,
    fun x h0 hx => ?_, fun c hc => ?_, fun hc => ?_⟩
  · rw [htmem]; exact hmem x (by omega) hx
  · rw [acquireRest_of_set (c := c) (r := r) hsafe (by rw [hraw]; exact hc) (by rw [hraw])]
      at hdata hfault
    refine ⟨hend (hfault.trans hsafe), hdata.trans ?_⟩
    rw [← compPres_eq_pressureOf, ← compTemp_eq_temperatureOf, hraw]
    rfl
  · rw [acquireRest_of_cal_unset (by rw [hraw]; exact hc)] at hdata hfault
    refine ⟨hfault, busy_of_exec_faulted rfl hs ht ?_, hdata.trans hraw⟩
    rw [hfault]
    exact Option.some_ne_none _

end Sys2Proof.Machine
end

section
/-! SUPPORT. The exceptions family: recording a fault, an access while a command runs, and the faulted
core (60_exceptions R262–R267; O43, O46, O50). -/

namespace Sys2Proof.Machine

/-! ## Recording a fault (R262, R263) -/

/-- `FAULT` as one number (10_state R34). -/
theorem toNat_faultWord_raiseFault (code : FaultCode) (info : Byte) (s : State) :
    (raiseFault code info s).faultWord.toNat = info.toNat * 256 + code.number.toNat := by
  have hcode : code.number.toNat < 2 ^ 8 := code.number.isLt
  have hinfo : info.toNat < 2 ^ 8 := info.isLt
  change ((info ++ code.number).setWidth 32).toNat = _
  rw [BitVec.toNat_setWidth, BitVec.toNat_append, ← Nat.shiftLeft_add_eq_or_of_lt hcode,
    Nat.shiftLeft_eq]
  omega

theorem faultWord_of_no_fault {s : State} (hf : s.fault = none) : s.faultWord = 0 := by
  rw [State.faultWord, hf]

/-- Settles O43. -/
theorem raiseRecordsFault : Obligations.RaiseRecordsFault := by
  unfold Obligations.RaiseRecordsFault
  intro info s
  exact ⟨fun _ => ⟨rfl, rfl, rfl⟩, toNat_faultWord_raiseFault .illegal info s,
    toNat_faultWord_raiseFault .busy info s, toNat_faultWord_raiseFault .unset info s,
    toNat_faultWord_raiseFault .tfineStale info s, toNat_faultWord_raiseFault .badAccess info s,
    faultWord_of_no_fault⟩

/-! ## The faulted core's agents (R265) -/

/-- `FAULTED` is 1 exactly when a fault is recorded (R263). -/
theorem faulted_eq_true_iff (s : State) : s.faulted = true ↔ s.fault ≠ none :=
  Option.isSome_iff_ne_none

theorem sequencerTurn_of_faulted {s : State} (hf : s.faulted = true) : sequencerTurn s = s :=
  sequencerTurn_of_stopped (by rw [hf, Bool.not_true, Bool.and_false])

theorem busTurn_of_faulted (e : BusEvent) {s : State} (hf : s.faulted = true) : busTurn e s = s :=
  if_pos hf

theorem exec_of_faulted (i : Instr) {s : State} (hf : s.faulted = true) : exec i s = .next s := by
  rw [exec_eq_issue, issue_of_faulted hf]

/-! ## Writes while a command runs (R267) -/

theorem acceptCmd_busy (w : Word) (c : Option Instr) {s : State} (hb : s.busy = true) :
    acceptCmd w c s = raiseFault .busy 0x00 s := if_pos hb

theorem writeTxWord_busy (w : Nat) (v : Word) {s : State} (hb : s.busy = true) :
    writeTxWord w v s = raiseFault .busy 0x02 s := if_pos hb

/-- An aligned offset in `TXBUF` is the offset of one of its words (20_memory R81). -/
theorem exists_txWord {off : Nat} (hlo : 0x80 ≤ off) (hhi : off < 0xA0) (halign : off % 4 = 0) :
    ∃ w, (Reg.tx w).inWindow = true ∧ off = (Reg.tx w).offset :=
  ⟨(off - 0x80) / 4, decide_eq_true (by omega), by simp only [Reg.offset, txBase]; omega⟩

theorem fault_hostRead_of_mapped {off : Word} (s : State) (h : MappedOffset off.toNat) :
    (hostRead 4 off s).fault = s.fault := by
  obtain ⟨-, -, hreg⟩ := hostRead_rest 4 off s
  exact hreg fun hnone => (accessReg_none_iff 4 off).1 hnone |>.elim (absurd rfl) (absurd h)

/-- Settles O46: `BUSY` is the first check of each of the three registers' writes. -/
theorem busyWritesFault : Obligations.BusyWritesFault := by
  unfold Obligations.BusyWritesFault
  intro s v off hb hf
  refine ⟨?_, ?_, fun hlo hhi halign => ?_, fun f => sequencerTurn_of_faulted rfl, fun hmapped => ?_,
    fun i => ?_⟩
  · exact (hostWrite_cmd v hf).trans (acceptCmd_busy v _ hb)
  · exact (hostWrite_offset (g := .ctrl) rfl rfl hf).trans (writeCtrl_busy v hb)
  · obtain ⟨w, hw, hoff⟩ := exists_txWord hlo hhi halign
    exact (hostWrite_offset hw hoff hf).trans (writeTxWord_busy w v hb)
  · exact (fault_hostRead_of_mapped s hmapped).trans hf
  · rw [exec_eq_issue, issue_of_busy hb ((faulted_eq_false_iff s).2 hf)]
    rfl

/-! ## A step of the faulted core (R265)

Of a turn that is no reset only the draws, the agenda and the host's place and variables are left to
change, and the core is read past each of them. -/

theorem sameCore_hostRead_of_faulted (width : Nat) (off : Word) {s : State} (hf : s.faulted = true) :
    Sys2Proof.Claims.SameCore s (hostRead width off s) := by
  obtain ⟨hrest, hfault, -⟩ := hostRead_rest width off s
  rw [hrest, hfault hf]
  exact ⟨rfl, rfl, rfl, rfl, rfl, rfl, rfl, rfl, rfl, rfl⟩

theorem sameCore_setHost {s t : State} (h : Sys2Proof.Claims.SameCore s t) (a : HostAgent) :
    Sys2Proof.Claims.SameCore s (t.setHost a) := h

theorem sameCore_afterIssue {s t : State} (h : Sys2Proof.Claims.SameCore s t) :
    Sys2Proof.Claims.SameCore s (afterIssue t) := by
  rw [afterIssue_eq]
  exact sameCore_setHost h _

/-- The state a move of the machine comes to, its command, if it is one, having run. -/
def Move.result : Move → State
  | .moved t => t
  | .run i t => afterIssue (issue i t)

theorem stepState_eq (s : State) : stepState s = (nextMove s).result := by
  unfold stepState
  cases nextMove s <;> rfl

/-- No line of the host's program changes a faulted core. -/
theorem sameCore_hostLine_of_faulted (op : HostOp) {s : State} (hf : s.faulted = true) :
    Sys2Proof.Claims.SameCore s (hostLine op s).result := by
  have hself := sameCore_refl s
  cases op with
  | write width off v =>
    rw [hostLine, hostWrite_of_faulted hf]
    exact sameCore_setHost hself _
  | read x width off =>
    exact sameCore_setHost (sameCore_setHost (sameCore_hostRead_of_faulted width off hf) _) _
  | wait =>
    rw [hostLine]
    split
    · exact hself
    · exact sameCore_setHost hself _
  | ifEq x hi lo v target => rw [hostLine]; split <;> exact sameCore_setHost hself _
  | ifNe x hi lo v target => rw [hostLine]; split <;> exact sameCore_setHost hself _
  | halt => exact hself
  | issue w =>
    rw [hostLine]
    split
    · exact sameCore_afterIssue hself
    · cases cmdOf w with
      | some i =>
        change Sys2Proof.Claims.SameCore s (afterIssue (issue i s))
        rw [issue_of_faulted hf]
        exact sameCore_afterIssue hself
      | none =>
        change Sys2Proof.Claims.SameCore s (afterIssue (hostWrite 4 0 w s))
        rw [hostWrite_of_faulted hf]
        exact sameCore_afterIssue hself

theorem sameCore_hostTurn_of_faulted {s : State} (hf : s.faulted = true) :
    Sys2Proof.Claims.SameCore s (hostTurn s).result := by
  unfold hostTurn
  split
  · exact sameCore_hostLine_of_faulted _ hf
  · exact sameCore_refl s

theorem nextMove_seq {s : State} {rest : List Turn} (h : s.agenda = .seq :: rest) :
    nextMove s = .moved (sequencerTurn (s.setAgenda rest)) := by simp [nextMove, h]

theorem nextMove_bus {s : State} {e : BusEvent} {rest : List Turn} (h : s.agenda = .bus e :: rest) :
    nextMove s = .moved (busTurn e (s.setAgenda rest)) := by simp [nextMove, h]

/-- Whoever's turn it is, a faulted core keeps its state, but for a reset (R265, R291). -/
theorem sameCore_nextMove_of_faulted {s : State} (hf : s.faulted = true)
    (hno : s.agenda.head? ≠ some .reset) : Sys2Proof.Claims.SameCore s (nextMove s).result := by
  cases ha : s.agenda with
  | nil =>
    rw [nextMove_nil ha, hf, Bool.not_true, Bool.and_false, if_neg Bool.false_ne_true]
    exact sameCore_hostTurn_of_faulted hf
  | cons turn rest =>
    have hrest : (s.setAgenda rest).faulted = true := hf
    cases turn with
    | seq =>
      rw [nextMove_seq ha, sequencerTurn_of_faulted hrest]
      exact sameCore_refl s
    | bus e =>
      rw [nextMove_bus ha, busTurn_of_faulted e hrest]
      exact sameCore_refl s
    | host =>
      rw [nextMove_host ha]
      exact sameCore_hostTurn_of_faulted hrest
    | reset => exact absurd (by rw [ha]; rfl) hno

theorem sameCore_step_of_faulted {s t : State} (hf : s.faulted = true)
    (hno : s.agenda.head? ≠ some .reset) (hstep : step s = .next t) :
    Sys2Proof.Claims.SameCore s t := by
  rw [step_eq, stepState_eq] at hstep
  cases hstep
  exact sameCore_nextMove_of_faulted hf hno

/-! ## Reads of any core (R265, R268) -/

theorem hostReadWord_bad {width : Nat} {off : Word} (s : State)
    (h : width ≠ 4 ∨ ¬MappedOffset off.toNat) :
    hostReadWord width off s = Config.draw 32 s.draws := by
  rw [hostReadWord, accessReg_bad h]
  rfl

theorem hostReadWord_mapped {off : Word} (s : State) (h : MappedOffset off.toNat) :
    ∃ g, regAt off.toNat = some g ∧ hostReadWord 4 off s = g.value s (Config.draw 32 s.draws) := by
  obtain ⟨g, hg, hoff⟩ := exists_offset h
  exact ⟨g, hoff ▸ regAt_offset hg, hostReadWord_offset s hg hoff⟩

/-- Settles O50: each agent's turn asks for `FAULTED` first. -/
theorem faultedCoreIsQuiescent : Obligations.FaultedCoreIsQuiescent := by
  unfold Obligations.FaultedCoreIsQuiescent
  intro s hfault
  have hf := (faulted_eq_true_iff s).2 hfault
  exact ⟨fun i => exec_of_faulted i hf, fun _ _ _ => hostWrite_of_faulted hf,
    sequencerTurn_of_faulted hf, fun e => busTurn_of_faulted e hf,
    fun width off => sameCore_hostRead_of_faulted width off hf,
    fun _ hmapped => hostReadWord_mapped s hmapped, fun _ _ hbad => hostReadWord_bad s hbad,
    fun _ hno hstep => sameCore_step_of_faulted hf hno hstep⟩

end Sys2Proof.Machine
end

section
/-! SUPPORT. The reset and hazards family: power-on reset, from a faulted core too (70_reset R291;
O52). -/

namespace Sys2Proof.Machine

/-- A reset leaves the core at its reset values, but for its parameters (R291; log 15). -/
theorem sameCore_powerReset (s : State) : Sys2Proof.Claims.SameCore State.reset
    { powerReset s with params := State.reset.params } :=
  ⟨rfl, rfl, rfl, rfl, rfl, rfl, rfl, rfl, rfl, rfl⟩

/-- Settles O52: the turn of a reset is `powerReset`, and no other turn changes a faulted core. -/
theorem powerResetRestores : Obligations.PowerResetRestores := by
  unfold Obligations.PowerResetRestores
  refine ⟨fun s t hfault hno hstep => ?_, fun s rest hagenda => ?_⟩
  · obtain ⟨-, -, -, -, hkept, -⟩ :=
      sameCore_step_of_faulted ((faulted_eq_true_iff s).2 hfault) hno hstep
    exact hkept
  · exact ⟨_, step_of_moved (nextMove_reset hagenda), sameCore_powerReset _, rfl, rfl, rfl⟩

end Sys2Proof.Machine
end

section
/-! SUPPORT. The reset and hazards family: a `WRITE` with an unset byte faults before any bus
activity (70_reset R296; O17). -/

namespace Sys2Proof.Machine

/-- The search for an unset byte stops at the first one. -/
theorem firstUnsetFrom_eq_some {s : State} {i j k : Nat} (hi : i ≤ j) (hk : j < i + k)
    (hset : TxReady s j) (hunset : s.txByte j = none) : firstUnsetFrom s i k = some j := by
  induction k generalizing i with
  | zero => omega
  | succ k ih =>
    rw [firstUnsetFrom]
    by_cases hij : i = j
    · rw [hij, hunset]; rfl
    · have hisSome : (s.txByte i).isNone = false := by
        rw [Option.isNone_eq_false_iff]; exact hset i (by omega)
      rw [hisSome, if_neg Bool.false_ne_true]
      exact ih (by omega) (by omega)

/-- A `WRITE` whose lowest unset byte is `j` stops at its entry (R152 W0, R266). -/
theorem enter_write_unset {s : State} {n : BitVec 8} {j : Nat} (a : Addr7) (hj : j < n.toNat)
    (hset : TxReady s j) (hunset : s.txByte j = none) :
    enter (.write a n) s = raiseFault .unset (txInfo j) s := by
  have hfirst : firstUnsetTx s n.toNat = some j :=
    firstUnsetFrom_eq_some (Nat.zero_le j) (by omega) hset hunset
  rw [enter, callWrite, hfirst]

/-- The core since the `WRITE` was latched in `s₀`: at its entry, nothing counted, no register but
`FAULT` written. -/
structure AtWriteEntry (s₀ : State) (c : Instr) (j : Nat) (s : State) : Prop where
  seq : s.seq = .entry c
  counted : NothingCounted s₀ s
  data : s.data = s₀.data
  outcome : s.outcome = s₀.outcome
  mem : s.mem = s₀.mem
  fault : s.fault = none ∨ s.fault = some { code := .unset, info := txInfo j }

/-- A `WRITE` whose lowest unset byte is `j`: it comes to no poll and to no end. -/
def unsetCourse (s₀ : State) (c : Instr) (j : Nat) : Course where
  base := AtWriteEntry s₀ c j
  first _ := True
  poll _ _ _ := False
  ended _ := False

theorem unsetCourse_kept {s₀ : State} {n : BitVec 8} {j : Nat} (a : Addr7) (hj : j < n.toNat)
    (hset : TxReady s₀ j) (hunset : s₀.txByte j = none) :
    (unsetCourse s₀ (.write a n) j).Kept (.write a n) where
  moves hm hb := ⟨⟨hm.seq.trans hb.seq, hb.counted.moves hm, hm.data.trans hb.data,
    hm.outcome.trans hb.outcome, hm.mem.trans hb.mem, hm.fault ▸ hb.fault⟩, id, fun _ _ => id, id⟩
  enter {s} hq hb _ := by
    have htx := txByte_of_mem hb.mem
    rw [enter_write_unset a hj (fun i hi => by rw [htx]; exact hset i hi) ((htx j).trans hunset)]
    refine ⟨⟨hq, hb.counted, hb.data, hb.outcome, hb.mem, .inr rfl⟩, ?_⟩
    rw [show (raiseFault .unset (txInfo j) s).seq = _ from hq]
    exact ⟨rfl, trivial⟩
  observe _ _ hp := hp.elim
  resume _ _ hp := hp.elim

/-- Settles O17: the command does not end, so it has raised the only fault it can. -/
theorem writeUnsetFaults : Obligations.WriteUnsetFaults := by
  unfold Obligations.WriteUnsetFaults
  intro s a n j hs hn hj hunset hset
  have hlatched : AtWriteEntry s (.write a n) j
      (s.latched (encode (.write a n)) (.entry (.write a n))) :=
    ⟨rfl, nothingCounted_latched .., rfl, rfl, rfl, .inl hs.2⟩
  obtain ⟨t, ht, hentry, hend⟩ :=
    (unsetCourse_kept a hj hset hunset).exec (decide_eq_true hn) hs hlatched trivial
  obtain ⟨hseq, ⟨hstarts, hobs⟩, hdata, hout, hmem, hfault⟩ := hentry
  have hfault := hfault.resolve_left fun hnone => (hend hnone).2
  exact ⟨t, ht, hfault, hseq, hstarts, hobs, hdata, hout, fun _ => by rw [hmem]⟩

end Sys2Proof.Machine
end

section
/-! SUPPORT. The reset and hazards family: the observations of the transport commands to the device's
own address under the reference device (40_bus R148, 70_reset R316; O22). -/

namespace Sys2Proof.Machine

section
variable {d d' : RefDevice} {s u : State} {ph : Phase} {sb addr rxne : Bool}

/-- A command whose first actions lead to a return with Success has ended there, the bus as it was
at the return. -/
theorem UnderReference.exec_success {n : Nat} {i : Instr} {P : Periph → Prop}
    (h : UnderReference d s) (hw : i.wf = true)
    (hl : LeadsTo n (answered (enter i (s.latched (encode i) (.entry i)).countSeqStep))
      (answered (endCmd (u.setOutcome .success))))
    (hu : Served d' ph sb addr rxne u) (hP : P u.bus) :
    ∃ t, exec i s = .next t ∧ Accepts t ∧ t.outcome = .success ∧
      t.tally.observations = s.tally.observations + n ∧ P t.bus := by
  rw [(hu.returned .success).answered_eq] at hl
  obtain ⟨hexec, hobs⟩ := h.exec_counted hw hl ⟨rfl, hu.fault⟩
  exact ⟨_, hexec, ⟨rfl, hu.fault⟩, rfl, hobs, hP⟩

/-- A requested STOP is made at once, in any phase that takes one (R146). -/
theorem Served.callStop_of_takesStop (h : Served d ph sb false false s) (hph : ph.takesStop = true)
    (c : Instr) (r : Ret) (pt : Point) :
    ∃ t, answered (Machine.callStop c r pt s) = t ∧ Served d .idle false false false t ∧
      Awaits c r pt s t := by
  obtain ⟨hpe, hstart, -, haf, rfl, -, haddr, hrx⟩ := h.bus
  obtain ⟨t, ht, -, hserved, hawaits⟩ := (h.toServing.onBus (·.setStop true)).answers_one c r pt rfl
    (d.next_stop hpe rfl hph) rfl ⟨hpe, hstart, rfl, haf, rfl, rfl, haddr, hrx⟩ rfl
  exact ⟨t, ht, hserved, hawaits.of_core rfl rfl⟩

/-- The bytes of a `write` that is ready. -/
theorem TxReady.exists_bytes {n : Nat} (h : TxReady s n) :
    ∃ bs : List Byte, bs.length = n ∧ ∀ j (hj : j < bs.length), s.txByte j = some bs[j] :=
  ⟨List.ofFn fun j : Fin n => (s.txByte j).get (h j j.2), List.length_ofFn, fun j hj => by simp⟩

/-! ## The `start()` calls of a probe -/

/-- The bus agent's part calls no `start()`. -/
theorem starts_answered (s : State) : (answered s).tally.starts = s.tally.starts := by
  rw [(unlessFaulted_busWindow_busOnly s).tally]

/-- A poll that ends at its first observation calls no `start()`. -/
theorem Served.leadsTo_resume_starts {c : Instr} {r : Ret} {pt : Point}
    (h : Served d ph sb addr rxne s) (hq : s.seq = .poll c r pt 0)
    (hc : pt.cond s.bus.observe = true) :
    ∃ u, LeadsTo 1 s (answered (resume c r pt (some s.bus.observe) u)) ∧
      Served d ph sb addr rxne u ∧ u.tally.starts = s.tally.starts := by
  have hobs : observeStep c r pt 0 s.countSeqStep =
      s.observed (.polled c r pt (some s.bus.observe)) := if_pos hc
  have hmid := h.observed (.polled c r pt (some s.bus.observe))
  refine ⟨_, ⟨⟨2, ?_⟩, ?_⟩, hmid.countSeqStep, rfl⟩
  · rw [h.runTurns_succ (by simp [State.busy, hq]), seqStep_poll hq, hobs, hmid.answered_eq,
      hmid.runTurns_succ rfl, seqStep_polled rfl]
    rfl
  · rw [(unlessFaulted_busWindow_busOnly _).tally]
    exact congrArg Prod.fst (counts_resume c r pt _ (s.observed _).countSeqStep)

/-- A probe of the device's own address is acknowledged in its first attempt, which is its only
`start()` call (R154). -/
theorem Served.leadsTo_probed_starts (h : Served d .idle false false false s) (c : Instr) (r : Ret)
    (m : Nat) :
    ∃ u, LeadsTo 3 (answered (probeAttempt c r Config.devAddr m 1 s))
        (answered (returnProbe c r true u)) ∧
      Served { d with wcnt := 0 } .idle false false false u ∧
      u.tally.starts = s.tally.starts + 1 := by
  obtain ⟨t₁, ht₁, hstart, hawaits₁⟩ := h.callStart c r (.q2 Config.devAddr m 1)
  obtain ⟨u₁, hl₁, hu₁, hs₁⟩ := hstart.leadsTo_resume_starts hawaits₁.seq hstart.bus.sb
  obtain ⟨t₂, ht₂, haddr, hawaits₂⟩ := hu₁.writeAddress c r (.q5 Config.devAddr m 1) false
  obtain ⟨u₂, hl₂, hu₂, hs₂⟩ := haddr.leadsTo_resume_starts hawaits₂.seq
    (by simp [Point.cond, Periph.observe, haddr.bus.addr])
  obtain ⟨t₃, ht₃, hstop, hawaits₃⟩ := hu₂.clearStatus.callStop c r (.qStop Config.devAddr m 1 true)
  obtain ⟨u₃, hl₃, hu₃, hs₃⟩ := hstop.leadsTo_resume_starts hawaits₃.seq
    (by simp [Point.cond, Periph.observe, hstop.bus.stop])
  have hwrite : resume c r (.q2 Config.devAddr m 1) (some t₁.bus.observe) u₁ =
      beginPoll c r (.q5 Config.devAddr m 1)
        (u₁.onBus (·.writeDR (addrByte Config.devAddr false))) := rfl
  have hack : resume c r (.q5 Config.devAddr m 1) (some t₂.bus.observe) u₂ =
      Machine.callStop c r (.qStop Config.devAddr m 1 true) (u₂.onBus Periph.clearStatus) := by
    simp [resume, afterQ5, Periph.observe, haddr.bus.addr]
  rw [hwrite, ht₂] at hl₁
  rw [hack, ht₃] at hl₂
  refine ⟨u₃, ht₁ ▸ (hl₁.trans hl₂).trans hl₃, hu₃, ?_⟩
  calc u₃.tally.starts
      = u₂.tally.starts := by rw [hs₃, ← ht₃]; exact starts_answered _
    _ = u₁.tally.starts := by rw [hs₂, ← ht₂]; exact starts_answered _
    _ = s.tally.starts + 1 := by rw [hs₁, ← ht₁]; exact starts_answered _

end

/-- Settles O22. -/
theorem referenceStepCounts : Obligations.ReferenceStepCounts := by
  unfold Obligations.ReferenceStepCounts
  intro s d h
  have hfirst := fun i => (h.served.latched (encode i) (.entry i)).countSeqStep
  refine ⟨?start, ?stop, fun n hn htx => ?write, fun n hne hn => ?read, ?readNone,
    fun m hm => ?probe⟩
  case start =>
    obtain ⟨t, ht, hstart, hawaits⟩ := (hfirst .start).callStart .start .top .s2
    obtain ⟨u, hl, hu, -⟩ := hstart.leadsTo_resume hawaits.seq hstart.bus.sb
    rw [← ht] at hl
    exact h.exec_success (i := .start) (u := u)
      (P := fun p => p.sr1.sb = true ∧ p.phase = .awaitAddr) rfl hl hu ⟨hu.bus.sb, hu.bus.phase⟩
  case stop =>
    obtain ⟨t, ht, hstop, hawaits⟩ := (hfirst .stop).callStop_of_takesStop rfl .stop .top .p2
    obtain ⟨u, hl, hu, -⟩ := hstop.leadsTo_resume hawaits.seq
      (by simp [Point.cond, Periph.observe, hstop.bus.stop])
    rw [← ht] at hl
    exact h.exec_success (i := .stop) (u := u) (P := (·.phase = .idle)) rfl hl hu hu.bus.phase
  case write =>
    obtain ⟨bs, hlen, hbs⟩ := htx.exists_bytes
    obtain ⟨u, hl, hu, -⟩ := (hfirst (.write Config.devAddr n)).leadsTo_returnWrite
      (c := .write Config.devAddr n) (r := .top) (bs := bs)
      fun j hj => (txByte_of_mem (firstStep_core s _ _).1 j).trans (hbs j hj)
    rw [hlen, Nat.add_comm] at hl
    exact h.exec_success (i := .write Config.devAddr n) (u := u) (P := (·.phase = .idle))
      (decide_eq_true hn) hl hu hu.bus.phase
  case read =>
    obtain ⟨u, hl, hu, -⟩ := (hfirst (.read Config.devAddr n)).leadsTo_returnRead
      (c := .read Config.devAddr n) (r := .top) (fun h0 => hne (BitVec.eq_of_toNat_eq h0)) hn
    have henter : ∀ v, enter (.read Config.devAddr n) v =
        callRead (.read Config.devAddr n) .top Config.devAddr n.toNat v := fun _ => if_neg hne
    rw [← henter, Nat.add_comm] at hl
    exact h.exec_success (i := .read Config.devAddr n) (u := u) (P := (·.phase = .idle))
      (decide_eq_true hn) hl hu hu.bus.phase
  case readNone =>
    obtain ⟨t, ht, hacc, hout, hobs, -⟩ := h.exec_success (i := .read Config.devAddr 0) (n := 0)
      (P := fun _ => True) rfl ⟨⟨0, rfl⟩, rfl⟩ (hfirst (.read Config.devAddr 0)) trivial
    exact ⟨t, ht, hacc, hout, hobs⟩
  case probe =>
    obtain ⟨u, hl, hu, hstarts⟩ := (hfirst (.probe Config.devAddr m)).leadsTo_probed_starts
      (.probe Config.devAddr m) .top m.toNat
    have henter : ∀ v, enter (.probe Config.devAddr m) v =
        probeAttempt (.probe Config.devAddr m) .top Config.devAddr m.toNat 1 v :=
      fun _ => if_neg fun h0 => hm (BitVec.eq_of_toNat_eq h0)
    have hready : answered (returnProbe (.probe Config.devAddr m) .top true u) =
        endCmd (u.setReady true) :=
      (hu.of_same (t := endCmd (u.setReady true)) rfl rfl rfl rfl).answered_eq
    rw [← henter, hready] at hl
    obtain ⟨hexec, hobs⟩ := h.exec_counted rfl hl ⟨rfl, hu.fault⟩
    exact ⟨_, hexec, ⟨rfl, hu.fault⟩, rfl, hobs, hstarts, hu.bus.phase⟩

end Sys2Proof.Machine
end

section
/-! SUPPORT. The reset and hazards family: with the peripheral disabled no bus event comes, and every
poll makes its whole budget of observations (70_reset R294, 40_bus R143, R145; O18). -/

namespace Sys2Proof.Machine

/-- A core without a fault whose peripheral is disabled, with no START made: no event comes (R145),
so what is requested stays requested. -/
structure Silent (s : State) : Prop where
  fault : s.fault = none
  pe : s.bus.cr.pe = false
  sb : s.bus.sr1.sb = false

/-- What a command that only waits may change: `CMD`, its place, its requests on the bus, the turns
taken and the counts. -/
def WaitOnly (s t : State) : Prop :=
  t = { s with cmd := t.cmd, seq := t.seq, bus := t.bus, agenda := t.agenda, tally := t.tally }

theorem WaitOnly.trans {s t u : State} (h : WaitOnly s t) (k : WaitOnly t u) : WaitOnly s u := by
  unfold WaitOnly at *
  rw [k, h]

section
variable {s t : State} (h : WaitOnly s t)
include h
theorem WaitOnly.fault : t.fault = s.fault := by rw [h]
theorem WaitOnly.data : t.data = s.data := by rw [h]
theorem WaitOnly.mem : t.mem = s.mem := by rw [h]
theorem WaitOnly.params : t.params = s.params := by rw [h]
end

theorem Silent.of_waitOnly {s t : State} (h : Silent s) (hw : WaitOnly s t) (hb : t.bus = s.bus) :
    Silent t := ⟨hw.fault.trans h.fault, hb ▸ h.pe, hb ▸ h.sb⟩

theorem waitOnly_latched (s : State) (w : Word) (q : Seq) : WaitOnly s (s.latched w q) := rfl

/-! ## The turns of a command on a silent bus -/

section
variable {s : State} (h : Silent s)
include h

/-- The sequencer's turn is its step alone. -/
theorem Silent.sequencerTurn_eq (hb : s.busy = true) : sequencerTurn s = seqStep s := by
  have hpe : (seqStep s).bus.cr.pe = false := (seqStep_keeps s).pe.trans h.pe
  rw [sequencerTurn_of_running hb ((faulted_eq_false_iff s).2 h.fault), unlessFaulted,
    busWindow_of_pe _ hpe, ite_self]

/-- A turn is the bus agent's, which does nothing, or the sequencer's. -/
theorem Silent.waitTurn_cases (hb : s.busy = true) :
    (∃ e rest, s.agenda = .bus e :: rest ∧ waitTurn s = s.setAgenda rest) ∨
      ∃ l, waitTurn s = seqStep (s.setAgenda l) := by
  have hstep := h.sequencerTurn_eq hb
  unfold waitTurn
  cases ha : s.agenda with
  | nil => exact .inr ⟨[], hstep.trans (by rw [setAgenda_self ha])⟩
  | cons turn rest =>
    have hrest : Silent (s.setAgenda rest) := ⟨h.fault, h.pe, h.sb⟩
    cases turn with
    | bus e => exact .inl ⟨e, rest, rfl, busTurn_of_pe e _ hrest.pe⟩
    | seq => exact .inr ⟨rest, hrest.sequencerTurn_eq hb⟩
    | host | reset => exact .inr ⟨s.agenda, hstep⟩

theorem Silent.runTurns_succ (hb : s.busy = true) (k : Nat) :
    runTurns (k + 1) s = runTurns k (waitTurn s) := by
  rw [runTurns, hb, (faulted_eq_false_iff s).2 h.fault]; rfl

/-- However the agenda interleaves, the sequencer's next step is what happens next. -/
theorem Silent.runTurns_seqStep (hb : s.busy = true) :
    ∃ k l, runTurns k s = seqStep (s.setAgenda l) := by
  generalize ha : s.agenda = turns
  induction turns generalizing s with
  | nil =>
    obtain ⟨_, _, hbus, -⟩ | ⟨l, hl⟩ := h.waitTurn_cases hb
    · rw [ha] at hbus; cases hbus
    · exact ⟨1, l, (h.runTurns_succ hb 0).trans hl⟩
  | cons turn rest ih =>
    obtain ⟨e, rest', hbus, hturn⟩ | ⟨l, hl⟩ := h.waitTurn_cases hb
    · obtain ⟨-, rfl⟩ := List.cons.inj (ha.symm.trans hbus)
      obtain ⟨k, l, hk⟩ := ih (s := s.setAgenda rest) ⟨h.fault, h.pe, h.sb⟩ hb rfl
      exact ⟨k + 1, l, by rw [h.runTurns_succ hb, hturn]; exact hk⟩
    · exact ⟨1, l, (h.runTurns_succ hb 0).trans hl⟩

/-- The first step of a latched command. -/
theorem Silent.leadsTo_enter {i : Instr} (hq : s.seq = .entry i) :
    ∃ u, LeadsTo 0 s (enter i u) ∧ WaitOnly s u ∧ u.bus = s.bus := by
  obtain ⟨k, l, hk⟩ := h.runTurns_seqStep (by simp [State.busy, hq])
  rw [seqStep_entry (s := s.setAgenda l) hq] at hk
  exact ⟨_, ⟨⟨k, hk⟩, congrArg Prod.fst (counts_enter i (s.setAgenda l).countSeqStep)⟩, rfl, rfl⟩

/-- The step after a poll. -/
theorem Silent.leadsTo_resume {c : Instr} {r : Ret} {pt : Point} {res : Option Obs}
    (hq : s.seq = .polled c r pt res) :
    ∃ u, LeadsTo 0 s (resume c r pt res u) ∧ WaitOnly s u ∧ u.bus = s.bus := by
  obtain ⟨k, l, hk⟩ := h.runTurns_seqStep (by simp [State.busy, hq])
  rw [seqStep_polled (s := s.setAgenda l) hq] at hk
  exact ⟨_, ⟨⟨k, hk⟩, congrArg Prod.fst (counts_resume c r pt res (s.setAgenda l).countSeqStep)⟩,
    rfl, rfl⟩

/-- An observation that does not meet the condition: the poll goes on until its budget is used
up. -/
theorem Silent.leadsTo_observed {c : Instr} {r : Ret} {pt : Point} {j : Nat}
    (hq : s.seq = .poll c r pt j) (hc : pt.cond s.bus.observe = false) :
    ∃ u, LeadsTo 1 s u ∧ WaitOnly s u ∧ u.bus = s.bus ∧
      u.seq = if j + 1 < pt.budget s.params then .poll c r pt (j + 1) else .polled c r pt none := by
  obtain ⟨k, l, hk⟩ := h.runTurns_seqStep (by simp [State.busy, hq])
  have hobs : observeStep c r pt j (s.setAgenda l).countSeqStep = (s.setAgenda l).observed
      (if j + 1 < pt.budget s.params then .poll c r pt (j + 1) else .polled c r pt none) := by
    have hno : ¬pt.cond (s.setAgenda l).countSeqStep.bus.observe = true := Bool.eq_false_iff.1 hc
    rw [observeStep, if_neg hno]
    exact (apply_ite (s.setAgenda l).observed _ _ _).symm
  rw [seqStep_poll (s := s.setAgenda l) hq, hobs] at hk
  exact ⟨_, ⟨⟨k, hk⟩, rfl⟩, rfl, rfl, rfl⟩

end

/-! ## Polls that time out -/

section
variable {s : State} {c : Instr} {r : Ret} {pt pt' : Point}

/-- A poll whose condition does not hold makes the rest of its budget of observations (R141). -/
theorem Silent.leadsTo_timeout {j n : Nat} (h : Silent s) (hq : s.seq = .poll c r pt j)
    (hc : pt.cond s.bus.observe = false) (hn : j + (n + 1) = pt.budget s.params) :
    ∃ u, LeadsTo (n + 1) s (resume c r pt none u) ∧ WaitOnly s u ∧ u.bus = s.bus := by
  induction n generalizing s j with
  | zero =>
    obtain ⟨t, hl, hw, hb, hseq⟩ := h.leadsTo_observed hq hc
    rw [if_neg (by omega)] at hseq
    obtain ⟨u, hlu, hwu, hbu⟩ := (h.of_waitOnly hw hb).leadsTo_resume hseq
    exact ⟨u, hl.trans hlu, hw.trans hwu, hbu.trans hb⟩
  | succ n ih =>
    obtain ⟨t, hl, hw, hb, hseq⟩ := h.leadsTo_observed hq hc
    rw [if_pos (by omega)] at hseq
    obtain ⟨u, hlu, hwu, hbu⟩ := ih (h.of_waitOnly hw hb) hseq (hb ▸ hc)
      (by rw [hw.params]; omega)
    exact ⟨u, Nat.add_comm 1 (n + 1) ▸ hl.trans hlu, hw.trans hwu, hbu.trans hb⟩

/-- A whole poll times out after its budget (R143). -/
theorem Silent.leadsTo_poll_timeout (h : Silent s) (hq : s.seq = .poll c r pt 0)
    (hc : pt.cond s.bus.observe = false) :
    ∃ u, LeadsTo (pt.budget s.params) s (resume c r pt none u) ∧ WaitOnly s u ∧ u.bus = s.bus := by
  obtain ⟨n, hn⟩ := Nat.exists_eq_add_of_lt (budget_pos s.params pt)
  rw [hn, Nat.zero_add]
  exact h.leadsTo_timeout hq hc (by omega)

/-- A `start()` times out, its request pending (R150). -/
theorem Silent.leadsTo_callStart (h : Silent s) (hc : ∀ obs, pt.cond obs = obs.sr1.sb) :
    ∃ u, LeadsTo (pt.budget s.params) (callStart c r pt s) (resume c r pt none u) ∧
      Silent u ∧ WaitOnly s u ∧ u.bus = s.bus.setStart true := by
  have hcall : Silent (callStart c r pt s) := ⟨h.fault, h.pe, h.sb⟩
  have hw : WaitOnly s (callStart c r pt s) := rfl
  obtain ⟨u, hl, hwu, hb⟩ := hcall.leadsTo_poll_timeout rfl ((hc _).trans h.sb)
  exact ⟨u, hl, hcall.of_waitOnly hwu hb, hw.trans hwu, hb⟩

/-- A `stop()` times out, its request pending (R151). -/
theorem Silent.leadsTo_callStop (h : Silent s) (hc : ∀ obs, pt.cond obs = !obs.cr.stop) :
    ∃ u, LeadsTo (pt.budget s.params) (callStop c r pt s) (resume c r pt none u) ∧
      Silent u ∧ WaitOnly s u ∧ u.bus = s.bus.setStop true := by
  have hcall : Silent (callStop c r pt s) := ⟨h.fault, h.pe, h.sb⟩
  have hw : WaitOnly s (callStop c r pt s) := rfl
  obtain ⟨u, hl, hwu, hb⟩ := hcall.leadsTo_poll_timeout rfl (hc _)
  exact ⟨u, hl, hcall.of_waitOnly hwu hb, hw.trans hwu, hb⟩

/-- From every line a probe that is not acknowledged ends its command (R154, R210 I2). -/
theorem returnProbe_false (c : Instr) (r : Ret) (s : State) :
    returnProbe c r false s = endCmd (s.setReady false) := by cases r <;> rfl

/-- The attempts of a probe from the `k`-th on all time out. -/
theorem Silent.leadsTo_notReady {a : Addr7} {m k j : Nat} (h : Silent s) (hk : k + j = m) :
    ∃ u, LeadsTo ((j + 1) * s.params.bStart) (probeAttempt c r a m k s)
      (endCmd (u.setReady false)) ∧ WaitOnly s u := by
  have hfirst : ∀ {s : State} (k), Silent s → ∃ u, LeadsTo s.params.bStart
      (probeAttempt c r a m k s) (nextAttempt c r a m k u) ∧ Silent u ∧ WaitOnly s u := fun k h =>
    have ⟨u, hl, hu, hw, _⟩ := h.leadsTo_callStart (pt := .q2 a m k) fun _ => rfl
    ⟨u, hl, hu, hw⟩
  induction j generalizing s k with
  | zero =>
    obtain ⟨u, hl, -, hw⟩ := hfirst k h
    rw [nextAttempt, if_neg (by omega), returnProbe_false] at hl
    rw [Nat.zero_add, Nat.one_mul]
    exact ⟨u, hl, hw⟩
  | succ j ih =>
    obtain ⟨v, hlv, hv, hwv⟩ := hfirst k h
    rw [nextAttempt, if_pos (by omega)] at hlv
    obtain ⟨u, hl, hw⟩ := ih (k := k + 1) hv (by omega)
    rw [hwv.params] at hl
    rw [Nat.succ_mul, Nat.add_comm]
    exact ⟨u, hlv.trans hl, hwv.trans hw⟩

/-- A probe answers NotReady after all its attempts (R160). -/
theorem Silent.leadsTo_probe_notReady (h : Silent s) (a : Addr7) (m : Nat) :
    ∃ u, LeadsTo (m * s.params.bStart) (callProbe c r a m s) (endCmd (u.setReady false)) ∧
      WaitOnly s u := by
  cases m with
  | zero =>
    refine ⟨s, ?_, rfl⟩
    rw [callProbe, if_pos rfl, returnProbe_false, Nat.zero_mul]
    exact ⟨⟨0, rfl⟩, rfl⟩
  | succ m => exact h.leadsTo_notReady (Nat.add_comm 1 m)

end

/-! ## The commands on a disabled bus -/

/-- A command that comes from its first actions to a state that takes the next one ends there. -/
theorem Silent.exec {s : State} {i : Instr} {n : Nat} {Q : State → Prop} (h : Silent s)
    (hq : s.seq = .idle) (hw : i.wf = true)
    (hrun : ∀ u, Silent u → WaitOnly s u → ∃ t, LeadsTo n (enter i u) t ∧ Accepts t ∧ Q t) :
    ∃ t, Machine.exec i s = .next t ∧ Accepts t ∧
      t.tally.observations = s.tally.observations + n ∧ Q t := by
  have hlatched : Silent (s.latched (encode i) (.entry i)) := ⟨h.fault, h.pe, h.sb⟩
  obtain ⟨u, hlu, hwu, hbu⟩ := hlatched.leadsTo_enter rfl
  obtain ⟨t, hl, ht, hQ⟩ :=
    hrun u (hlatched.of_waitOnly hwu hbu) ((waitOnly_latched ..).trans hwu)
  have hall := hlu.trans hl
  have hstop : (t.busy && !t.faulted) = false := by simp [(busy_eq_false_iff t).2 ht.1]
  refine ⟨t, ?_, ht, ?_, hQ⟩
  · rw [exec_eq_issue, issue_of_idle hw hq h.fault]
    exact congrArg _ (hall.runCommand_eq hstop)
  · rw [hall.2, Nat.zero_add]; rfl

/-- A transfer whose `start()` times out calls `stop()`, which times out too, and returns
Timeout. -/
theorem Silent.exec_transfer_timeout {s : State} {i : Instr} {pt pt' : Point} (h : Silent s)
    (hq : s.seq = .idle) (hw : i.wf = true)
    (henter : ∀ u : State, u.mem = s.mem → enter i u = callStart i .top pt u)
    (hsb : ∀ obs, pt.cond obs = obs.sr1.sb)
    (hnext : ∀ u, resume i .top pt none u = callStop i .top pt' u)
    (hclr : ∀ obs, pt'.cond obs = !obs.cr.stop)
    (hret : ∀ u, resume i .top pt' none u = endCmd (u.setOutcome .timeout)) :
    ∃ t, Machine.exec i s = .next t ∧ Accepts t ∧ t.outcome = .timeout ∧ t.bus.cr.start = true ∧
      t.bus.cr.stop = true ∧ t.tally.observations =
        s.tally.observations + (pt.budget s.params + pt'.budget s.params) := by
  obtain ⟨t, ht, hacc, hobs, hout, hstart, hstop⟩ := h.exec
    (n := pt.budget s.params + pt'.budget s.params)
    (Q := fun t => t.outcome = .timeout ∧ t.bus.cr.start = true ∧ t.bus.cr.stop = true)
    hq hw fun u hu hwu => by
      obtain ⟨v, hlv, hv, hwv, hbv⟩ := hu.leadsTo_callStart (c := i) (r := .top) hsb
      obtain ⟨w, hlw, hw, -, hbw⟩ := hv.leadsTo_callStop (c := i) (r := .top) hclr
      rw [hnext, hwu.params, ← henter u hwu.mem] at hlv
      rw [hret, hwv.params, hwu.params] at hlw
      have hpending : w.bus.cr.start = true := by rw [hbw, hbv]; rfl
      exact ⟨_, hlv.trans hlw, ⟨rfl, hw.fault⟩, rfl, hpending, congrArg (·.cr.stop) hbw⟩
  exact ⟨t, ht, hacc, hout, hstart, hstop, hobs⟩

/-- Settles O18: each poll of a command waits for a request that nothing answers. -/
theorem disabledBusTimesOut : Obligations.DisabledBusTimesOut := by
  unfold Obligations.DisabledBusTimesOut
  intro s ⟨hidle, hfault⟩ hpe hsb
  have h : Silent s := ⟨hfault, hpe, hsb⟩
  refine ⟨fun e => enabled_false_of_pe _ e hpe, ?start, ?stop, fun a n hn htx => ?write,
    fun a n hne hn => ?read, fun a m => ?probe, ?init⟩
  case start =>
    obtain ⟨t, ht, hacc, hobs, hout, hstart⟩ := h.exec (i := .start)
      (Q := fun t => t.outcome = .timeout ∧ t.bus.cr.start = true) hidle rfl fun u hu hw => by
        obtain ⟨v, hl, hv, -, hb⟩ := hu.leadsTo_callStart (c := .start) (r := .top) (pt := .s2)
          fun _ => rfl
        rw [hw.params] at hl
        exact ⟨_, hl, ⟨rfl, hv.fault⟩, rfl, congrArg (·.cr.start) hb⟩
    exact ⟨t, ht, hacc, hout, hstart, hobs⟩
  case stop =>
    obtain ⟨t, ht, hacc, hobs, hout, hstop⟩ := h.exec (i := .stop)
      (Q := fun t => t.outcome = .timeout ∧ t.bus.cr.stop = true) hidle rfl fun u hu hw => by
        obtain ⟨v, hl, hv, -, hb⟩ := hu.leadsTo_callStop (c := .stop) (r := .top) (pt := .p2)
          fun _ => rfl
        rw [hw.params] at hl
        exact ⟨_, hl, ⟨rfl, hv.fault⟩, rfl, congrArg (·.cr.stop) hb⟩
    exact ⟨t, ht, hacc, hout, hstop, hobs⟩
  case write =>
    exact h.exec_transfer_timeout (i := .write a n) (pt := .w1 a n.toNat) (pt' := .wStop .timeout)
      hidle (decide_eq_true hn)
      (fun u hu => by
        have hready : TxReady u n.toNat := fun j hj => by rw [txByte_of_mem hu]; exact htx j hj
        rw [enter, callWrite, firstUnsetTx_eq_none hready])
      (fun _ => rfl) (fun _ => rfl) (fun _ => rfl) (fun _ => rfl)
  case read =>
    exact h.exec_transfer_timeout (i := .read a n) (pt := .rd2 a n.toNat) (pt' := .rdStop .timeout)
      hidle (decide_eq_true hn) (fun _ _ => if_neg hne)
      (fun _ => rfl) (fun _ => rfl) (fun _ => rfl) (fun _ => rfl)
  case probe =>
    obtain ⟨t, ht, hacc, hobs, hready⟩ := h.exec (i := .probe a m) (Q := (·.ready = false)) hidle rfl
      fun u hu hw => by
        obtain ⟨v, hl, hwv⟩ := hu.leadsTo_probe_notReady (c := .probe a m) (r := .top) a m.toNat
        rw [hw.params] at hl
        exact ⟨_, hl, ⟨rfl, hwv.fault.trans hu.fault⟩, rfl⟩
    exact ⟨t, ht, hacc, hready, hobs⟩
  case init =>
    obtain ⟨t, ht, hacc, hobs, hready, hdata, hmem⟩ := h.exec (i := .init)
      (Q := fun t => t.ready = false ∧ t.data = s.data ∧ t.mem = s.mem) hidle rfl fun u hu hw => by
        obtain ⟨v, hl, hwv⟩ := hu.leadsTo_probe_notReady (c := .init) (r := .i1) Config.devAddr
          u.params.readyAttempts.toNat
        have henter : enter .init u =
            callProbe .init .i1 Config.devAddr u.params.readyAttempts.toNat u := rfl
        rw [← henter, hw.params] at hl
        have hall := hw.trans hwv
        exact ⟨_, hl, ⟨rfl, hwv.fault.trans hu.fault⟩, rfl, hall.data, hall.mem⟩
    exact ⟨t, ht, hacc, hready, hdata, hobs, fun _ => by rw [hmem]⟩

end Sys2Proof.Machine
end
